-- ==== Sys2Proof/Word.lean ====
section
/-! DEFINITION. Word types of the packet reassembler block. Every quantity on a wire or in a register is an unsigned
integer of a stated width (rule R142); bit 0 is the least significant (R12). -/

namespace Sys2Proof

/-- A byte of a chunk or of a byte store. -/
abbrev Byte := BitVec 8

/-- A 16-bit wire field, register, table cell or output sample. -/
abbrev Half := BitVec 16

/-- A 32-bit register. -/
abbrev Word := BitVec 32

/-- A sample of the device's 32-bit tick counter (R291). -/
abbrev Tick := BitVec 32

/-- A 64-bit count of microseconds (R14, R217). -/
abbrev Micros := BitVec 64

end Sys2Proof
end

