-- ==== Sys2Proof/Machine/Bytes.lean ====
section
/-! DEFINITION. Byte order of the wire and of the output buffer (rules R12, R63, R64): multi-byte fields are
little-endian; a packed codec element is read as one big-endian number. -/

namespace Sys2Proof.Machine

/-- `LE16` of two bytes, the first arrived being the low one (R12). -/
def le16 (b0 b1 : Byte) : Half := b1 ++ b0

/-- `LE32` of four bytes in order of arrival (R12). -/
def le32 (b0 b1 b2 b3 : Byte) : BitVec 32 := b3 ++ b2 ++ b1 ++ b0

/-- Bits 7:0 of a half. -/
def loByte (x : Half) : Byte := x.extractLsb' 0 8

/-- Bits 15:8 of a half. -/
def hiByte (x : Half) : Byte := x.extractLsb' 8 8

/-- The two bytes of a half, low first. -/
def halfBytes (x : Half) : List Byte := [loByte x, hiByte x]

/-- The four bytes of a 32-bit value, low first. -/
def wordBytes (x : BitVec 32) : List Byte :=
  [x.extractLsb' 0 8, x.extractLsb' 8 8, x.extractLsb' 16 8, x.extractLsb' 24 8]

/-- The half at offset `i` of a byte string, none where the string ends before it. -/
def halfAt (bs : List Byte) (i : Nat) : Option Half :=
  match bs[i]?, bs[i + 1]? with
  | some b0, some b1 => some (le16 b0 b1)
  | _, _ => none

/-- `n` bytes of a number, low first; what does not fit `n` bytes is cut. -/
def leBytes : Nat → Nat → List Byte
  | 0, _ => []
  | n + 1, v => BitVec.ofNat 8 v :: leBytes n (v / 256)

/-- A byte string as one big-endian number: `V` of rule R241. -/
def beNat (bs : List Byte) : Nat :=
  bs.foldl (fun acc b => acc * 256 + b.toNat) 0

end Sys2Proof.Machine
end

