-- ==== Sys2Proof/Config.lean ====
section
/-! DEFINITION. The configuration `CFG` (rules R7, R8), the fixed sizes, and the free values of the model: opaque
constants that nothing in Lean can evaluate. -/

namespace Sys2Proof

/-- The calibration record `CAL[s]` (R39). The spec calls the four fields opaque; the model holds numbers (log entry 20,
DESIGN CHOICE). Only `DepthOf` reads them. -/
structure CalRecord where
  zpd : Nat
  zpps : Nat
  dcl : Nat
  coeff : List Nat
deriving DecidableEq, Repr

/-- An integer formula over a raw code and the fields of the calibration record: a form of `DepthOf` that reads `CAL`
(R8, R254; log entry 20). -/
inductive DepthExpr where
  | const (n : Int)
  | code
  | zpd
  | zpps
  | dcl
  /-- The i-th calibration coefficient, 0 beyond the last. -/
  | coeff (i : Nat)
  | add (a b : DepthExpr)
  | sub (a b : DepthExpr)
  | mul (a b : DepthExpr)
  /-- The quotient rounded down, toward minus infinity, whatever the signs; 0 where the divisor is 0. The spec gives no
  rounding (R254): log entry 20, DESIGN CHOICE. -/
  | div (a b : DepthExpr)
deriving DecidableEq, Repr

/-- The forms the parameter `DepthOf` may take (R254, U19; log entry 20). -/
inductive DepthFn where
  /-- `DepthOf(cal, c) = offset + slope * c`; the reference configuration uses `400 + 2c`. -/
  | affine (offset slope : Int)
  /-- `DepthOf(cal, c)` is the c-th number of a list, and -1 beyond it. -/
  | listed (depths : List Int)
  /-- A formula over the code and the calibration record. -/
  | formula (e : DepthExpr)
  /-- The device-optics formula itself, which the source does not give: the free function `Config.depthOf`. -/
  | device
deriving DecidableEq, Repr

/-- The parameters of R8, but for `HDR_SIZE` and `CMD_HDR_SIZE`, which R8 calls fixed (log entry 2 for why a value of this
type stands in State; log entry 25 for the values a parameter may take). -/
structure Cfg where
  nStreams : Nat
  /-- `SEQ_BITS`: width of the stream sequence id. -/
  seqBits : Nat
  /-- `TICK_BITS`: width of the device tick counter. -/
  tickBits : Nat
  /-- `ID_BITS`: width of the correlation id. -/
  idBits : Nat
  notReadyRetries : Nat
  xportRetries : Nat
  sanityTolUs : Nat
  notReadyBackoffUs : Nat
  /-- `F`: device ticks per microsecond. -/
  freq : Nat
  /-- `ELEM_IN_11`, `ELEM_IN_12`: input bytes of one codec element (R9). -/
  elemIn11 : Nat
  elemIn12 : Nat
  /-- `ELEM_OUT`: output samples of one codec element. -/
  elemOut : Nat
  /-- `SAMPLE_BITS`: width of an output sample. -/
  sampleBits : Nat
  maxCode : Nat
  noData : Nat
  maxDepth : Nat
  depthOf : DepthFn
  outCapMax : Nat
  /-- `BODY_MAX`: largest command reply body, bytes. -/
  bodyMax : Nat
deriving DecidableEq, Repr

namespace Config

/-- Bytes of the stream packet header, `HDR_SIZE` (R8: fixed; R91). -/
def hdrSize : Nat := 12

/-- Bytes of the command frame header, `CMD_HDR_SIZE` (R8: fixed; R92). -/
def cmdHdrSize : Nat := 8

/-- The reference configuration `CFG_REF` (R8). -/
def ref : Cfg where
  nStreams := 2
  seqBits := 16
  tickBits := 32
  idBits := 16
  notReadyRetries := 3
  xportRetries := 5
  sanityTolUs := 10000
  notReadyBackoffUs := 0
  freq := 60
  elemIn11 := 22
  elemIn12 := 24
  elemOut := 16
  sampleBits := 16
  maxCode := 2047
  noData := 0
  maxDepth := 10000
  depthOf := .affine 400 2
  outCapMax := 16777216
  bodyMax := 65535

/-- FREE VALUE (log entry 11): which of several agents that can go on does so next (R72, R283, U5: any order). -/
opaque nextTurn : Nat → Nat

/-- FREE VALUE (log entry 20): the device-optics formula, a total integer function of the calibration record and a raw
code (R254, U19). -/
opaque depthOf : CalRecord → Nat → Int

/-- FREE VALUE (log entry 23): the deadline of an attempt whose start and timeout add up to more than 64 bits, for the
n-th host clock read (R127, R142: no rule states it). -/
opaque lateDeadline : Nat → Micros

/-- FREE VALUE (log entry 33): `SAMPLE_BYTES` of a stream whose `CODEC` holds 3 (R45, R246, U9: no rule states it). -/
opaque xformSampleBytes : Nat

/-- FREE VALUE (log entry 34): the bytes, as a number, of a sample of `n` bytes whose value `n` bytes do not hold (R142, R185:
no rule states them). -/
opaque wideSample (n value : Nat) : Nat

/-- FREE VALUE (log entry 39): byte `i` of a `BODY` that was to hold more than `BODY_MAX` bytes, after the n-th host clock read
(R8, R28, R130: no rule states it). -/
opaque longBody (n i : Nat) : Byte

end Config

end Sys2Proof
end

