-- ==== Sys2Proof/Syntax.lean ====
section
/-! DEFINITION. The operations of the block (rule R109): one constructor of `Instr` for each row of
spec/opcode_table.json, with the operands the row's rule gives it. -/

namespace Sys2Proof

/-- The agents that execute steps (R11, R298). -/
inductive Agent where
  | host
  | ci (k : Nat)
  | rd (s : Nat)
deriving DecidableEq, Repr

/-- A version triple (R102). -/
structure Version where
  major : Half
  minor : Half
  build : Half
deriving DecidableEq, Repr

/-- A value for each of the 2^16 opcodes: `base` but for the listed exceptions (log entry 19). -/
structure OpMap (α : Type) where
  base : α
  exceptions : List (Half × α)
deriving DecidableEq, Repr

/-- The capability record `CAP` without `CAP_VALID` and `CAP.VERSION` (R26, R103). -/
structure Cap where
  hdrVariant : Byte
  magicH2D : Half
  magicD2H : Half
  maxPkt : Half
  opValid : OpMap Bool
  opTimeout : OpMap Word
  opDelay : OpMap Word
  sofTsPad : Bool
deriving DecidableEq, Repr

/-- One row of the capability table operand (R103). -/
structure CapRow where
  threshold : Version
  caps : Cap
deriving DecidableEq, Repr

/-- `CODEC[s]` (R30): codes 0 to 3 in this order. -/
inductive Codec where
  | pass
  | unpack11
  | unpack12
  | xform
deriving DecidableEq, Repr

/-- `TS_MODE[s]` (R30): codes 0 and 1. -/
inductive TsMode where
  | device
  | hostOnly
deriving DecidableEq, Repr

/-- The stream configuration registers of R30 but for `CFG_VALID`. -/
structure StreamConfig where
  typeSof : Half
  typeEof : Half
  codec : Codec
  lutEn : Bool
  xRes : Half
  yRes : Half
  cropEn : Bool
  cropX : Half
  cropY : Half
  cropW : Half
  cropH : Half
  pixBytes : BitVec 3
  tsMode : TsMode
  ignoreBytes : Word
  outCap : Word
deriving DecidableEq, Repr

/-- The table operand of `BD.READTABLE` (R253). -/
inductive TableSel where
  | s2d
  | d2s
deriving DecidableEq, Repr

/-- The mode operand of `BD.ELEMENT` (R244). -/
inductive ElemMode where
  | out
  | list
deriving DecidableEq, Repr

/-- `Hdr(p, S, o, i)`, what `CT.SCAN` finds (R128). -/
structure ReplyHdr where
  p : Nat
  size : Half
  op : Half
  id : Half
deriving DecidableEq, Repr

/-- An answer of `RawSend` (R13, R292). -/
inductive SendAns where
  | ok
  | timeout
  | stall
deriving DecidableEq, Repr

/-- An answer of `RawRecv` (R13, R292); `data []` is "no data", not an error (R10). -/
inductive RecvAns where
  | data (bytes : List Byte)
  | timeout
  | stall
deriving DecidableEq, Repr

/-- A device tick with the stream whose reader agent met it. -/
structure StreamTick where
  sid : Nat
  tick : Tick
deriving DecidableEq, Repr

/-- The operations of R109, one constructor for each row of spec/opcode_table.json. Operands of internal operations are
the arguments their rule's pseudocode names; stream operands are indices below `N_STREAMS`. `CS.ESTABLISH`, whose rule
names no stream, has its tick with the stream whose reader executes it: `CLK_LOCK` needs a holder (R72; log entry 12). -/
inductive Instr where
  -- host operations (R108)
  | ctConnect (a : Agent) (v : Version) (table : List CapRow)
  | ctDisconnect (a : Agent)
  | ctExec (a : Agent) (op : Half) (payload : List Byte)
  | prConfigure (a : Agent) (sid : Nat) (c : StreamConfig)
  | prArm (a : Agent) (sid : Nat)
  | prStop (a : Agent) (sid : Nat)
  | bdCalibrate (a : Agent) (sid : Nat) (cal : CalRecord) (mn mx : Half)
  | bdReadtable (a : Agent) (sid : Nat) (which : TableSel) (idx : Nat)
  | bdUnpack (a : Agent) (sid : Nat) (input : List Byte)
  | csTohost (a : Agent) (sid : Nat) (tick : Tick)
  | csHostonly (a : Agent) (sid : Nat)
  -- port transactions
  | prChunk (sid : Nat) (bytes : List Byte)
  | hwReset
  -- packet classes at STREAM_IN (R94, R177)
  | pktSof (sid : Nat) (seq size : Half) (ts : Tick)
  | pktEof (sid : Nat) (seq size : Half) (ts : Tick)
  | pktData (sid : Nat) (type seq size : Half) (ts : Tick)
  -- the request frame (R92, R124)
  | ctFrame (op id : Half) (payload : List Byte)
  -- reply classes at CTRL_RX (R97, R99, R131)
  | rspAck (size op id : Half) (data : List Byte)
  | rspNackCrc (size op id : Half) (data : List Byte)
  | rspNackBadParams (size op id : Half) (data : List Byte)
  | rspNackFileNotFound (size op id : Half) (data : List Byte)
  | rspNackNotReady (size op id : Half) (data : List Byte)
  | rspNackOverflow (size op id : Half) (data : List Byte)
  | rspNackFsLocked (size op id : Half) (data : List Byte)
  | rspNackOther (size op id status : Half) (data : List Byte)
  -- internal operations of the command transport
  | ctSendr (frame : List Byte)
  | ctRecvr
  | ctAttempt
  | ctScan (chunk : List Byte)
  | ctMatch (hdr : ReplyHdr)
  | ctGather (chunk : List Byte) (hdr : ReplyHdr)
  | ctStatus (body : List Byte)
  -- internal operations of the packet reassembler
  | prDiscard (sid : Nat) (bytes : List Byte) (pos : Nat)
  | prIgnore (sid : Nat) (bytes : List Byte) (pos : Nat)
  | prSeek (sid : Nat) (bytes : List Byte) (pos : Nat)
  | prHdr (sid : Nat) (bytes : List Byte) (pos : Nat)
  | prData (sid : Nat) (bytes : List Byte) (pos : Nat)
  | prPktend (sid : Nat)
  | prPktstart (sid : Nat)
  | prLosschk (sid : Nat)
  | prSof (sid : Nat)
  | prFramereset (sid : Nat)
  | prTime (sid : Nat)
  | prPiece (sid : Nat) (bytes : List Byte) (off : Half)
  | prEof (sid : Nat)
  | prPad (sid : Nat) (k : Half)
  | prOverflow (sid : Nat)
  | prPublish (sid : Nat)
  -- internal operations of the clock synchronizer
  | csEstablish (t : StreamTick)
  | csInit (sid : Nat) (tick : Tick)
  | csAdvance (sid : Nat) (tick : Tick)
  | csResync (sid : Nat) (tick : Tick)
  -- internal operations of the bit depth codec
  | bdFeed (sid : Nat) (bytes : List Byte)
  | bdElement (sid : Nat) (elem : List Byte) (mode : ElemMode)
  | bdMap (sid : Nat) (code : Half)
deriving DecidableEq, Repr

end Sys2Proof
end

