-- ==== Sys2Proof/WellFormed.lean ====
section
/-! DEFINITION. Well-formedness of an operation's operands: what each rule's pseudocode takes for granted of the
arguments it is started with. An operand that is only unsuitable, and for which the rule has an answer (`Refused`, an
error result, an event), is well formed. -/

namespace Sys2Proof

/-- Why an operation is ill formed. -/
inductive IllFormed where
  /-- A stream index that is not below `N_STREAMS` (R8, R20). -/
  | noSuchStream
  /-- A per-state parser operation whose position is not inside the chunk (R170: it runs while `pos < n`). -/
  | positionPastEnd
  /-- A payload whose length does not fit the 16-bit size field (R92). -/
  | payloadTooLong
  /-- A piece of no bytes (R175, R243: `k >= 1`). -/
  | emptyPiece
  /-- A reply header that `CT.SCAN` does not return: `S < 2`, or not inside the chunk (R128). -/
  | badReplyHeader
  /-- A body too short for its status word (R97, R131). -/
  | noStatus
  /-- An element whose length is neither `ELEM_IN_11` nor `ELEM_IN_12` (R241). -/
  | notAnElement
  /-- A raw code of more than 12 bits (R241). -/
  | notACode
deriving DecidableEq, Repr

namespace Instr

/-- The stream an operation works on, where it names one. -/
def stream? : Instr → Option Nat
  | ctConnect _ _ _ => none
  | ctDisconnect _ => none
  | ctExec _ _ _ => none
  | prConfigure _ sid _ => some sid
  | prArm _ sid => some sid
  | prStop _ sid => some sid
  | bdCalibrate _ sid _ _ _ => some sid
  | bdReadtable _ sid _ _ => some sid
  | bdUnpack _ sid _ => some sid
  | csTohost _ sid _ => some sid
  | csHostonly _ sid => some sid
  | prChunk sid _ => some sid
  | hwReset => none
  | pktSof sid _ _ _ => some sid
  | pktEof sid _ _ _ => some sid
  | pktData sid _ _ _ _ => some sid
  | ctFrame _ _ _ => none
  | rspAck _ _ _ _ => none
  | rspNackCrc _ _ _ _ => none
  | rspNackBadParams _ _ _ _ => none
  | rspNackFileNotFound _ _ _ _ => none
  | rspNackNotReady _ _ _ _ => none
  | rspNackOverflow _ _ _ _ => none
  | rspNackFsLocked _ _ _ _ => none
  | rspNackOther _ _ _ _ _ => none
  | ctSendr _ => none
  | ctRecvr => none
  | ctAttempt => none
  | ctScan _ => none
  | ctMatch _ => none
  | ctGather _ _ => none
  | ctStatus _ => none
  | prDiscard sid _ _ => some sid
  | prIgnore sid _ _ => some sid
  | prSeek sid _ _ => some sid
  | prHdr sid _ _ => some sid
  | prData sid _ _ => some sid
  | prPktend sid => some sid
  | prPktstart sid => some sid
  | prLosschk sid => some sid
  | prSof sid => some sid
  | prFramereset sid => some sid
  | prTime sid => some sid
  | prPiece sid _ _ => some sid
  | prEof sid => some sid
  | prPad sid _ => some sid
  | prOverflow sid => some sid
  | prPublish sid => some sid
  | csEstablish t => some t.sid
  | csInit sid _ => some sid
  | csAdvance sid _ => some sid
  | csResync sid _ => some sid
  | bdFeed sid _ => some sid
  | bdElement sid _ _ => some sid
  | bdMap sid _ => some sid

/-- What an operation's own operands get wrong under a configuration. -/
def operandProblem (cfg : Cfg) : Instr → Option IllFormed
  | prDiscard _ bytes pos => if pos < bytes.length then none else some .positionPastEnd
  | prIgnore _ bytes pos => if pos < bytes.length then none else some .positionPastEnd
  | prSeek _ bytes pos => if pos < bytes.length then none else some .positionPastEnd
  | prHdr _ bytes pos => if pos < bytes.length then none else some .positionPastEnd
  | prData _ bytes pos => if pos < bytes.length then none else some .positionPastEnd
  | ctFrame _ _ payload => if payload.length < 65536 then none else some .payloadTooLong
  | prPiece _ bytes _ => if bytes.isEmpty then some .emptyPiece else none
  | bdFeed _ bytes => if bytes.isEmpty then some .emptyPiece else none
  | ctMatch hdr => if hdr.size.toNat < 2 then some .badReplyHeader else none
  | ctGather chunk hdr =>
    if hdr.size.toNat < 2 || chunk.length < hdr.p + 8 then some .badReplyHeader else none
  | ctStatus body => if body.length < 2 then some .noStatus else none
  | bdElement _ elem _ =>
    if elem.length = cfg.elemIn11 || elem.length = cfg.elemIn12 then none else some .notAnElement
  | bdMap _ code => if code.toNat < 4096 then none else some .notACode
  | ctConnect _ _ _ => none
  | ctDisconnect _ => none
  | ctExec _ _ _ => none
  | prConfigure _ _ _ => none
  | prArm _ _ => none
  | prStop _ _ => none
  | bdCalibrate _ _ _ _ _ => none
  | bdReadtable _ _ _ _ => none
  | bdUnpack _ _ _ => none
  | csTohost _ _ _ => none
  | csHostonly _ _ => none
  | prChunk _ _ => none
  | hwReset => none
  | pktSof _ _ _ _ => none
  | pktEof _ _ _ _ => none
  | pktData _ _ _ _ _ => none
  | rspAck _ _ _ _ => none
  | rspNackCrc _ _ _ _ => none
  | rspNackBadParams _ _ _ _ => none
  | rspNackFileNotFound _ _ _ _ => none
  | rspNackNotReady _ _ _ _ => none
  | rspNackOverflow _ _ _ _ => none
  | rspNackFsLocked _ _ _ _ => none
  | rspNackOther _ _ _ _ _ => none
  | ctSendr _ => none
  | ctRecvr => none
  | ctAttempt => none
  | ctScan _ => none
  | prPktend _ => none
  | prPktstart _ => none
  | prLosschk _ => none
  | prSof _ => none
  | prFramereset _ => none
  | prTime _ => none
  | prEof _ => none
  | prPad _ _ => none
  | prOverflow _ => none
  | prPublish _ => none
  | csEstablish _ => none
  | csInit _ _ => none
  | csAdvance _ _ => none
  | csResync _ _ => none

/-- The first thing wrong with an operation under a configuration, none where it is well formed. -/
def check (cfg : Cfg) (i : Instr) : Option IllFormed :=
  match i.stream? with
  | some sid => if sid < cfg.nStreams then operandProblem cfg i else some .noSuchStream
  | none => operandProblem cfg i

/-- An operation whose operands are what its rule takes for granted. -/
abbrev wellFormed (cfg : Cfg) (i : Instr) : Prop := i.check cfg = none

end Instr

end Sys2Proof
end

