-- ==== Sys2Proof/Decode.lean ====
section
/-! DEFINITION. Decoding a port transaction to an operation (rules R90 to R99, R108), total, rejecting by name; then the
encoder, from the same tables. A transaction is what reaches the block at one port (R10): `HOSTOP` carries an 8-bit
selector and structured operands (no wire form exists, R108; log entry 21); `STREAM_IN` and `CTRL_RX` carry bytes. -/

namespace Sys2Proof

open Machine

/-- The structured operands of a host operation, one place for each operand of R108's table; a selector uses those its
row names. -/
structure HostArgs where
  sid : Nat
  version : Version
  table : List CapRow
  opcode : Half
  bytes : List Byte
  config : StreamConfig
  cal : CalRecord
  minCut : Half
  maxCut : Half
  which : TableSel
  idx : Nat
  tick : Tick
deriving DecidableEq, Repr

/-- A stream configuration with every field zero. -/
def StreamConfig.zero : StreamConfig :=
  { typeSof := 0, typeEof := 0, codec := .pass, lutEn := false, xRes := 0, yRes := 0, cropEn := false,
    cropX := 0, cropY := 0, cropW := 0, cropH := 0, pixBytes := 0, tsMode := .device, ignoreBytes := 0, outCap := 0 }

/-- A calibration record with every field zero. -/
def CalRecord.zero : CalRecord := { zpd := 0, zpps := 0, dcl := 0, coeff := [] }

/-- Operands of zeros, what an operand word nobody gave reads as. -/
def HostArgs.zero : HostArgs :=
  { sid := 0, version := ⟨0, 0, 0⟩, table := [], opcode := 0, bytes := [], config := StreamConfig.zero,
    cal := CalRecord.zero, minCut := 0, maxCut := 0, which := .s2d, idx := 0, tick := 0 }

/-- One input transaction at a port of the block (R10, R281). `CTRL_TX` is an output: no input stands for it. -/
inductive Transaction where
  /-- `HOSTOP`: an agent, a selector and its operands (R108). -/
  | hostop (a : Agent) (sel : Byte) (args : HostArgs)
  /-- `STREAM_IN[s]`: one chunk of bytes (R10, R170). -/
  | chunk (sid : Nat) (bytes : List Byte)
  /-- `STREAM_IN[s]`: the header word of a packet, its 12 bytes in one chunk (R91; `packet` of R111). -/
  | packet (sid : Nat) (hw : BitVec 96)
  /-- `CTRL_RX`: a reply, from its magic on (R97; `ENV reply` of R111). -/
  | reply (bytes : List Byte)
  /-- `RESET` (R310). -/
  | reset
deriving DecidableEq, Repr

/-- What an encoding of `30_encoding.md` stands for: an input transaction, or the request frame that the block itself puts
out at `CTRL_TX` (R92, R124), which no port accepts. -/
inductive Encoded where
  | input (t : Transaction)
  | request (bytes : List Byte)
deriving DecidableEq, Repr

/-- The register contents an encoding is compared with (R93: values of state registers, not constants). -/
structure DecodeCtx where
  magicH2D : Half
  magicD2H : Half
  typeSof : Half
  typeEof : Half
deriving DecidableEq, Repr

/-- The reference contents of R93, for stream 0. -/
def DecodeCtx.ref : DecodeCtx :=
  { magicH2D := 0x4D47, magicD2H := 0x4252, typeSof := 0x7100, typeEof := 0x7500 }

/-- Why a transaction is no operation. -/
inductive DecodeError where
  /-- A `HOSTOP` selector not in the table of R108 (R100, U12). -/
  | unknownSelector (sel : Byte)
  /-- A header or frame whose first two bytes are not the magic its format has (R91, R92, R97). -/
  | badMagic (found : Half)
  /-- A frame or reply shorter than its header (R92, R97). -/
  | truncated
  /-- A request whose size field is not the number of its payload bytes (R92). -/
  | badSize (declared : Half)
deriving DecidableEq, Repr

/-- The operation of a `HOSTOP` selector (R108). -/
def decodeHostop (a : Agent) (sel : Byte) (x : HostArgs) : Except DecodeError Instr :=
  match sel.toNat with
  | 0x01 => .ok (.ctConnect a x.version x.table)
  | 0x02 => .ok (.ctDisconnect a)
  | 0x03 => .ok (.ctExec a x.opcode x.bytes)
  | 0x10 => .ok (.prConfigure a x.sid x.config)
  | 0x11 => .ok (.prArm a x.sid)
  | 0x12 => .ok (.prStop a x.sid)
  | 0x20 => .ok (.bdCalibrate a x.sid x.cal x.minCut x.maxCut)
  | 0x21 => .ok (.bdReadtable a x.sid x.which x.idx)
  | 0x22 => .ok (.bdUnpack a x.sid x.bytes)
  | 0x30 => .ok (.csTohost a x.sid x.tick)
  | 0x31 => .ok (.csHostonly a x.sid)
  | _ => .error (.unknownSelector sel)

/-- The class of a stream packet by its header word (R91, R94). -/
def decodePacket (ctx : DecodeCtx) (sid : Nat) (hw : BitVec 96) : Except DecodeError Instr :=
  let magic := hw.extractLsb' 0 16
  let type := hw.extractLsb' 16 16
  let seq := hw.extractLsb' 32 16
  let size := hw.extractLsb' 48 16
  let ts := hw.extractLsb' 64 32
  if magic ≠ ctx.magicD2H then .error (.badMagic magic)
  else if type = ctx.typeSof then .ok (.pktSof sid seq size ts)
  else if type = ctx.typeEof then .ok (.pktEof sid seq size ts)
  else .ok (.pktData sid type seq size ts)

/-- A request frame (R92). -/
def decodeRequest (ctx : DecodeCtx) (bytes : List Byte) : Except DecodeError Instr :=
  match bytes with
  | m0 :: m1 :: s0 :: s1 :: o0 :: o1 :: i0 :: i1 :: payload =>
    if le16 m0 m1 ≠ ctx.magicH2D then .error (.badMagic (le16 m0 m1))
    else if (le16 s0 s1).toNat ≠ payload.length then .error (.badSize (le16 s0 s1))
    else .ok (.ctFrame (le16 o0 o1) (le16 i0 i1) payload)
  | _ => .error .truncated

/-- The class of a reply by its status word (R99); every other non-zero status is `NACK_OTHER`. -/
def replyClass (size op id status : Half) (data : List Byte) : Instr :=
  match status.toNat with
  | 0x0000 => .rspAck size op id data
  | 0x0003 => .rspNackCrc size op id data
  | 0x0005 => .rspNackBadParams size op id data
  | 0x0007 => .rspNackFileNotFound size op id data
  | 0x000D => .rspNackNotReady size op id data
  | 0x000E => .rspNackOverflow size op id data
  | 0x0010 => .rspNackFsLocked size op id data
  | _ => .rspNackOther size op id status data

/-- A reply from its magic on (R97). Its size field is an operand: a reply with a wrong one still reaches the block,
whose `CT.SCAN` judges it (R100, R128). -/
def decodeReply (ctx : DecodeCtx) (bytes : List Byte) : Except DecodeError Instr :=
  match bytes with
  | m0 :: m1 :: s0 :: s1 :: o0 :: o1 :: i0 :: i1 :: t0 :: t1 :: data =>
    if le16 m0 m1 ≠ ctx.magicD2H then .error (.badMagic (le16 m0 m1))
    else .ok (replyClass (le16 s0 s1) (le16 o0 o1) (le16 i0 i1) (le16 t0 t1) data)
  | _ => .error .truncated

/-- The operation an input transaction starts, given the registers its encoding is compared with. -/
def decodeInput (ctx : DecodeCtx) (t : Transaction) : Except DecodeError Instr :=
  match t with
  | .hostop a sel args => decodeHostop a sel args
  | .chunk sid bytes => .ok (.prChunk sid bytes)
  | .packet sid hw => decodePacket ctx sid hw
  | .reply bytes => decodeReply ctx bytes
  | .reset => .ok .hwReset

/-- The operation an encoding stands for. -/
def decode (ctx : DecodeCtx) (e : Encoded) : Except DecodeError Instr :=
  match e with
  | .input t => decodeInput ctx t
  | .request bytes => decodeRequest ctx bytes

/-- The header word of a packet (R91). -/
def headerWord (magic type seq size : Half) (ts : Tick) : BitVec 96 :=
  ts ++ size ++ seq ++ type ++ magic

/-- The 12 bytes of a packet header in order of arrival (R91). -/
def headerBytes (magic type seq size : Half) (ts : Tick) : List Byte :=
  halfBytes magic ++ halfBytes type ++ halfBytes seq ++ halfBytes size ++ wordBytes ts

/-- The 12 bytes of a header word in order of arrival (R91). -/
def packetBytes (hw : BitVec 96) : List Byte := leBytes Config.hdrSize hw.toNat

/-- The bytes of a request frame (R92, R124); the size field is the payload's length. -/
def frameBytes (magic op id : Half) (payload : List Byte) : List Byte :=
  halfBytes magic ++ halfBytes (BitVec.ofNat 16 payload.length) ++ halfBytes op ++ halfBytes id ++ payload

/-- The bytes of a reply from its magic on (R97). -/
def replyBytes (magic size op id status : Half) (data : List Byte) : List Byte :=
  halfBytes magic ++ halfBytes size ++ halfBytes op ++ halfBytes id ++ halfBytes status ++ data

/-- The encoding of an operation, none for an internal operation that has no bit pattern (R90). -/
def encode (ctx : DecodeCtx) (i : Instr) : Option Encoded :=
  match i with
  | .ctConnect a v table => some (.input (.hostop a 0x01 { HostArgs.zero with version := v, table := table }))
  | .ctDisconnect a => some (.input (.hostop a 0x02 HostArgs.zero))
  | .ctExec a op payload => some (.input (.hostop a 0x03 { HostArgs.zero with opcode := op, bytes := payload }))
  | .prConfigure a sid c => some (.input (.hostop a 0x10 { HostArgs.zero with sid := sid, config := c }))
  | .prArm a sid => some (.input (.hostop a 0x11 { HostArgs.zero with sid := sid }))
  | .prStop a sid => some (.input (.hostop a 0x12 { HostArgs.zero with sid := sid }))
  | .bdCalibrate a sid cal mn mx =>
    some (.input (.hostop a 0x20 { HostArgs.zero with sid := sid, cal := cal, minCut := mn, maxCut := mx }))
  | .bdReadtable a sid which idx =>
    some (.input (.hostop a 0x21 { HostArgs.zero with sid := sid, which := which, idx := idx }))
  | .bdUnpack a sid input => some (.input (.hostop a 0x22 { HostArgs.zero with sid := sid, bytes := input }))
  | .csTohost a sid tick => some (.input (.hostop a 0x30 { HostArgs.zero with sid := sid, tick := tick }))
  | .csHostonly a sid => some (.input (.hostop a 0x31 { HostArgs.zero with sid := sid }))
  | .prChunk sid bytes => some (.input (.chunk sid bytes))
  | .hwReset => some (.input .reset)
  | .pktSof sid seq size ts => some (.input (.packet sid (headerWord ctx.magicD2H ctx.typeSof seq size ts)))
  | .pktEof sid seq size ts => some (.input (.packet sid (headerWord ctx.magicD2H ctx.typeEof seq size ts)))
  | .pktData sid type seq size ts => some (.input (.packet sid (headerWord ctx.magicD2H type seq size ts)))
  | .ctFrame op id payload => some (.request (frameBytes ctx.magicH2D op id payload))
  | .rspAck size op id data => some (.input (.reply (replyBytes ctx.magicD2H size op id 0x0000 data)))
  | .rspNackCrc size op id data => some (.input (.reply (replyBytes ctx.magicD2H size op id 0x0003 data)))
  | .rspNackBadParams size op id data => some (.input (.reply (replyBytes ctx.magicD2H size op id 0x0005 data)))
  | .rspNackFileNotFound size op id data => some (.input (.reply (replyBytes ctx.magicD2H size op id 0x0007 data)))
  | .rspNackNotReady size op id data => some (.input (.reply (replyBytes ctx.magicD2H size op id 0x000D data)))
  | .rspNackOverflow size op id data => some (.input (.reply (replyBytes ctx.magicD2H size op id 0x000E data)))
  | .rspNackFsLocked size op id data => some (.input (.reply (replyBytes ctx.magicD2H size op id 0x0010 data)))
  | .rspNackOther size op id status data => some (.input (.reply (replyBytes ctx.magicD2H size op id status data)))
  | .ctSendr _ => none
  | .ctRecvr => none
  | .ctAttempt => none
  | .ctScan _ => none
  | .ctMatch _ => none
  | .ctGather _ _ => none
  | .ctStatus _ => none
  | .prDiscard _ _ _ => none
  | .prIgnore _ _ _ => none
  | .prSeek _ _ _ => none
  | .prHdr _ _ _ => none
  | .prData _ _ _ => none
  | .prPktend _ => none
  | .prPktstart _ => none
  | .prLosschk _ => none
  | .prSof _ => none
  | .prFramereset _ => none
  | .prTime _ => none
  | .prPiece _ _ _ => none
  | .prEof _ => none
  | .prPad _ _ => none
  | .prOverflow _ => none
  | .prPublish _ => none
  | .csEstablish _ => none
  | .csInit _ _ => none
  | .csAdvance _ _ => none
  | .csResync _ _ => none
  | .bdFeed _ _ => none
  | .bdElement _ _ _ => none
  | .bdMap _ _ => none

/-- An operand of an operation that its encoding under a context cannot carry: a `PKT.DATA` whose type is one of the
stream's two designated types (R94), or a `NACK_OTHER` whose status is one the table names (R99). -/
def encodable (ctx : DecodeCtx) (i : Instr) : Bool :=
  match i with
  | .pktEof _ _ _ _ => ctx.typeSof != ctx.typeEof
  | .pktData _ type _ _ _ => type != ctx.typeSof && type != ctx.typeEof
  | .rspNackOther _ _ _ status _ =>
    !([0x0000, 0x0003, 0x0005, 0x0007, 0x000D, 0x000E, 0x0010].contains status.toNat)
  | .ctFrame _ _ payload => decide (payload.length < 65536)
  | _ => true

/-- The agent of a selector's row (R108, R287), used where a table word names none. -/
def rowAgent (sel : Nat) : Agent :=
  match sel with
  | 0x03 => .ci 0
  | 0x30 => .rd 0
  | 0x31 => .rd 0
  | _ => .host

/-- What a word of spec/opcode_table.json stands for (log entry 30). The width of the word selects the format: 8 bits
`HOSTOP`, 64 `CMDREQ`, 80 `CMDRSP`, 96 `SPH`; a narrower request word is told apart by its magic. Bits the word does not
have are zero: operands of zeros, and as many zero bytes as a size field declares. -/
def tableEncoding (nbits w : Nat) : Encoded :=
  if nbits ≤ 8 then .input (.hostop (rowAgent (w % 256)) (BitVec.ofNat 8 w) HostArgs.zero)
  else if nbits = 64 || w % 65536 = 0x4D47 then
    .request (leBytes 8 w ++ List.replicate (w / 65536 % 65536) 0)
  else if nbits = 80 then .input (.reply (leBytes 10 w ++ List.replicate (w / 65536 % 65536 - 2) 0))
  else .input (.packet 0 (BitVec.ofNat 96 w))

/-- The operation the decoder reads from a word of spec/opcode_table.json, the compared registers at their reference
contents (R93). -/
def decodeTableWord (nbits w : Nat) : Option Instr :=
  match decode DecodeCtx.ref (tableEncoding nbits w) with
  | .ok i => some i
  | .error _ => none

end Sys2Proof
end

