-- ==== Sys2Proof/Machine/State.lean ====
section
/-! DEFINITION. The state of the block as plain data: every register, flag, store and lock of `10_state.md`, then the
model's own fields (the environment's queues, the trace of outputs, the operations in flight and held); why a step
stops; reset. -/

namespace Sys2Proof.Machine

/-- A byte or half store: (address, value) pairs, addresses strictly rising. An unlisted address holds no value; reading
it is the fault `unwritten` (R21, R312, U1; log entry 4). -/
abbrev Cells (α : Type) := List (Nat × α)

/-- A byte store. -/
abbrev Memory := List Host.Cell

/-- The stores of R42. -/
inductive Space where
  | hdr
  | cont
  | out
  | s2d
  | d2s
deriving DecidableEq, Repr

/-- The parser states of R31, codes 0 to 4 in this order; 5 to 7 never occur (log entry 15). -/
inductive PState where
  | awaitingConfiguration
  | ignoringGarbage
  | seekingMagic
  | readingHeader
  | readingData
deriving DecidableEq, Repr

/-- The causes of `ProtocolMismatch`, codes 0 to 4 in this order (R270). -/
inductive MismatchCause where
  | magic
  | truncated
  | size
  | id
  | opcode
deriving DecidableEq, Repr

/-- The names of the NACK taxonomy that end in `DeviceRejected` (R99). -/
inductive NackName where
  | crcMismatch
  | badParameters
  | fileNotFound
  | overflow
  | fileSystemLocked
  | other
deriving DecidableEq, Repr

/-- The ten events of R270. -/
inductive Event where
  | transportTimeout
  | transportStall
  | unsupportedOpcode (op : Half)
  | protocolMismatch (cause : MismatchCause)
  | deviceNotReady
  | deviceRejected (name : NackName) (code : Half)
  | outputBufferOverflow (sid : Nat)
  | frameCorrupted (sid : Nat)
  | clockDesync (sid : Nat)
  | packetLoss (sid : Nat) (expected got : Half)
deriving DecidableEq, Repr

/-- The error kinds of `CT.EXEC` (R106). -/
inductive ErrKind where
  | unsupportedOpcode
  | transportTimeout
  | transportStall
  | deviceNotReady
  | deviceRejected (name : NackName) (code : Half)
deriving DecidableEq, Repr

/-- The result of `CT.EXEC` (R106). -/
inductive ExecResult where
  | ok (data : List Byte)
  | err (kind : ErrKind)
deriving DecidableEq, Repr

/-- What `CT.SCAN` returns (R128). -/
inductive ScanResult where
  | none
  | malformed
  | hdr (h : ReplyHdr)
deriving DecidableEq, Repr

/-- The value an operation returns (log entry 16). `waiting` says that it has not returned yet: it waits for an answer of
the environment, for a lock, or for its agent. -/
inductive Ret where
  | none
  | ok
  | refused
  | exec (r : ExecResult)
  | cell (v : Half)
  | unpacked (consumed : Nat) (samples : List Half)
  | samples (vs : List Half)
  | time (us : Micros)
  | pos (p : Nat)
  | flag (b : Bool)
  | bytes (bs : List Byte)
  | scan (r : ScanResult)
  | err (kind : ErrKind)
  | waiting
deriving DecidableEq, Repr

/-- The frame record of R104. -/
structure Frame where
  id : Word
  ts : Micros
  len : Word
  data : List Byte
  corrupt : Bool
  loss : Bool
  lossFirst : Bool
  lossLast : Bool
deriving DecidableEq, Repr

/-- What the block puts out at its ports, and the labels of R271 (log entry 16). -/
inductive Output where
  /-- `raise` (R271). -/
  | event (e : Event)
  /-- `CTRL_TX`: one raw send with its timeout (R10, R292). -/
  | tx (bytes : List Byte) (timeout : Word)
  /-- `CTRL_RX`: one raw receive request with its timeout (R10, R292). -/
  | rx (timeout : Word)
  /-- `SINK[s]`: a write buffer is acquired (R296). -/
  | acquire (sid : Nat)
  /-- `SINK[s]`: a frame is committed (R187). -/
  | commit (sid : Nat) (f : Frame)
  /-- `FPS[s]` (R295). -/
  | fps (sid : Nat) (id : Word) (ts : Micros)
  /-- `DIAG`, kind packet (R105). -/
  | diagPacket (sid : Nat) (type seq size : Half) (ts : Tick)
  /-- `DIAG`, kind time (R105). -/
  | diagTime (sid : Nat) (tick : Tick) (result : Micros)
  /-- A delay, microseconds: no effect on state (R331; log entry 24). -/
  | delay (us : Nat)
  /-- The result of a host operation, to the agent that started it (R10). -/
  | result (a : Agent) (r : Ret)
deriving DecidableEq, Repr

/-- The host clock as the environment drives it (R14, R110; log entry 6). -/
structure HostClock where
  /-- answers of the next reads, in order -/
  queue : List Micros
  /-- the answer of every read once the queue is empty; with none, such a read waits -/
  rest : Option Micros
  /-- the answer given last; no later one is below it -/
  last : Micros
  /-- reads made so far -/
  reads : Nat
deriving DecidableEq, Repr

/-- The block's ports towards its environment, and the scheduler's say over its locks. -/
structure Io where
  clock : HostClock
  /-- answers of the next raw sends, in order -/
  sendQ : List SendAns
  /-- the answer of every raw send once the queue is empty; with none, such a send waits (log entry 7) -/
  sendRest : Option SendAns
  /-- answers of the next raw receives, in order; with none left a receive waits (log entry 8) -/
  recvQ : List RecvAns
  /-- an operation that reaches a free lock inside its course takes it at once; where false it waits before it (U5; log
  entry 12) -/
  grantLocks : Bool
  trace : List Output
deriving DecidableEq, Repr

/-- Where a command exchange waits (R18): before a transaction that has no answer yet. -/
inductive CtPhase where
  /-- at the host clock read that sets `DEADLINE` (R127) -/
  | start
  /-- at a raw send of `bytes` in `CT.SENDR` (R125) -/
  | send (bytes : List Byte)
  /-- at the deadline test of the receive loop of `CT.ATTEMPT` (R127) -/
  | pollReply
  /-- at a raw receive in that loop -/
  | reply
  /-- at the deadline test of the loop of `CT.GATHER`, for the rest of `size` body bytes (R130) -/
  | pollBody (size : Half)
  /-- at a raw receive in that loop -/
  | body (size : Half)
deriving DecidableEq, Repr

/-- The transient registers of one `CT.EXEC` (R28). -/
structure Exchange where
  owner : Agent
  reqOp : Half
  reqId : Half
  reqFrame : List Byte
  nrCnt : BitVec 2
  xrCnt : BitVec 3
  deadline : Micros
  rxBuf : List Byte
  body : List Byte
  bodyLen : Half
  phase : CtPhase
deriving DecidableEq, Repr

/-- A `CT.EXEC` that has passed its capability and size tests and waits at `lock(CMD_LOCK)` (R123, R76). -/
structure Command where
  agent : Agent
  op : Half
  payload : List Byte
deriving DecidableEq, Repr

/-- A time conversion of a stream, with the operand it was started with. -/
inductive TimeOp where
  /-- `CS.TOHOST` (R211) -/
  | tohost (tick : Tick)
  /-- `CS.HOSTONLY` (R219) -/
  | hostonly
  /-- `CS.ESTABLISH` on its own (R212) -/
  | establish (tick : Tick)
  /-- `CS.INIT` or `CS.RESYNC` on its own (R213, R218) -/
  | init (tick : Tick)
deriving DecidableEq, Repr

/-- Where a time conversion waits (R18). -/
inductive TimeStage where
  /-- at `lock(CLK_LOCK)` in `CS.ESTABLISH` -/
  | lock
  /-- inside that lock, at the host clock read -/
  | reference
  /-- at the host clock read of `CS.INIT` or `CS.HOSTONLY` -/
  | clock
deriving DecidableEq, Repr

/-- A time conversion that waits, and where. -/
structure TimeWait where
  op : TimeOp
  stage : TimeStage
deriving DecidableEq, Repr

/-- What goes on with the time of a packet (R182, R177, R174, R170). -/
inductive PacketUser where
  /-- nothing: `PR.TIME` or `PR.PKTSTART` was started on its own -/
  | packet
  /-- the end of `PR.HDR`, started on its own, which ends at position `pos` -/
  | header (pos : Nat)
  /-- the end of `PR.HDR` and the rest of a chunk -/
  | chunk (rest : List Byte)
deriving DecidableEq, Repr

/-- What a time conversion in flight was started by. -/
inductive TimeUser where
  /-- an agent at `HOSTOP`, or none where an internal operation was started on its own -/
  | asked (a : Option Agent)
  /-- the packet parser -/
  | parser (u : PacketUser)
deriving DecidableEq, Repr

/-- An operation of the reader agent `RD[s]` in flight: it waits inside a time conversion (R18; log entry 10). -/
structure Job where
  wait : TimeWait
  user : TimeUser
deriving DecidableEq, Repr

/-- The shared clock reference (R29). -/
structure ClockRef where
  valid : Bool
  tick : Tick
  host : Micros
deriving DecidableEq, Repr

/-- One stream record (R20, R30 to R41). -/
structure Stream where
  lock : Option Agent
  /-- the operation of `RD[s]` in flight (R18, R24: the model's form of a position inside an operation) -/
  job : Option Job
  cfgValid : Bool
  conf : StreamConfig
  pstate : PState
  ignLeft : Word
  magicHalf : Bool
  hdrCnt : BitVec 4
  dataLeft : Half
  dataOff : Half
  hdr : Memory
  lastSeq : Half
  lossMark : Bool
  lossFirst : Bool
  lossLast : Bool
  outLen : Word
  trailPad : Half
  corrupt : Bool
  drop : Bool
  frameId : Word
  pktTime : Micros
  cont : Memory
  contLen : BitVec 5
  syFirst : Bool
  syLref : Tick
  syTotal : BitVec 64
  syLastTick : Tick
  syLastRes : Micros
  out : Memory
  calValid : Bool
  cal : CalRecord
  minCut : Half
  maxCut : Half
  s2d : Cells Half
  d2s : Cells Half
deriving DecidableEq, Repr

/-- One line of the stimulus notation (R110): a port transaction, or what the environment does next. -/
inductive Stimulus where
  | port (t : Transaction)
  /-- the answers of the next host clock reads, then `rest` for every later one (none: they wait). The line `ENV clock`
  of R110 has its last value as the rest. -/
  | clock (vs : List Micros) (rest : Option Micros)
  /-- further answers of raw sends, then `rest` for every later one (none: they wait). The line `ENV send` of R110 has
  `Ok` as the rest. -/
  | send (vs : List SendAns) (rest : Option SendAns)
  /-- further answers of raw receives -/
  | recv (vs : List RecvAns)
  /-- whether operations that reach a free lock take it at once (U5) -/
  | locks (granted : Bool)
deriving DecidableEq, Repr

/-- The whole state. -/
structure State where
  /-- `CFG`; no operation writes it (R7; log entry 2) -/
  cfg : Cfg
  capValid : Bool
  capVersion : Version
  cap : Cap
  nextId : Half
  cmdLock : Option Agent
  /-- the exchange in flight, with the transient registers of R28 -/
  exchange : Option Exchange
  ref : ClockRef
  clkLock : Option Agent
  streams : List Stream
  io : Io
  /-- what the environment does next, head first (the model's own) -/
  stimuli : List Stimulus
  /-- operations that have not begun: they wait for `STREAM_LOCK` or for their agent (the model's own) -/
  held : List Instr
  /-- commands that wait at `lock(CMD_LOCK)` (R43, R72, R76) -/
  admitted : List Command
  /-- choices among several agents made so far (the model's own) -/
  choices : Nat
  /-- the value the last operation returned (the model's own) -/
  ret : Ret
deriving DecidableEq, Repr

/-- Why the machine stops with a fault. All are faults of the model, after `93_implementation_defined.md`; none is
reachable from reset within the width bound of R222. -/
inductive Fault where
  /-- A read of a cell that no rule has written, or that lies at or above its store's count (R21, R312, U1, U24). Raised
  by the operations that read `HDR`, `CONT`, `OUT`, `S2D`, `D2S`. Safe: the hardware has no such read. -/
  | unwritten (sp : Space) (addr : Nat)
  /-- A tick total or a time that its 64-bit register cannot hold (R142, R222, U14). Raised by the clock synchronizer.
  Safe: it stops where the spec gives no meaning. -/
  | outOf64Bits
  /-- A parser round that consumes no byte, which R170 excludes; only a state that breaks R44 has one. Raised by
  `PR.CHUNK`. Safe. -/
  | parserStuck
  /-- Payload for, or `BD.UNPACK` of, a stream whose `CODEC` register holds 3, to which the spec gives no semantics (R246,
  U9); `PR.CONFIGURE` never writes it (R162). Raised by `PR.PIECE` and `BD.UNPACK`. Safe. -/
  | codecUnspecified
deriving DecidableEq, Repr

/-- Why the model gives a transaction or an operation no step: the `refuse` of R13 and R288. -/
inductive Refusal where
  /-- An operation whose meaning is not written yet. Raised by `exec`'s arm only. Safe. -/
  | notModelled (mnemonic : String)
  /-- A transaction that is no operation: an unknown `HOSTOP` selector (R100, R108, U12). Raised by `step`. Safe. -/
  | undecodable (e : DecodeError)
  /-- An operation with ill-formed operands. Raised by `step`, and by an operation whose operand it cannot use. Safe. -/
  | illFormed (e : IllFormed)
  /-- An agent that is not in the operation's row of R287, or no agent of the block (U12). Raised by the host operations.
  Safe. -/
  | wrongAgent
  /-- A request with `8 + L > CAP.MAX_PKT` (R100, R124, U11), or bytes that no raw send takes (R292). Raised by
  `CT.EXEC`, `CT.FRAME` and `CT.SENDR`. Safe. -/
  | oversizeRequest
  /-- A raw receive met by more than `CAP.MAX_PKT` bytes, which no environment answers (R28, R292, U3). Raised by an
  exchange that takes such an answer. Safe. -/
  | oversizeAnswer
  /-- A `CFG` outside its domain (U13). Raised by `step`, and by `PR.CONFIGURE` for `UNPACK11` with `MAX_CODE > 2^11`.
  Safe. -/
  | illegalConfiguration
  /-- An internal operation of the command transport started with no exchange in flight: the transient registers it
  works on do not exist (R28, R109). Raised by the `CT` internal operations. Safe. -/
  | noExchange
  /-- An internal operation of the codec started on a stream whose codec packs no samples: only the unpack codecs have a
  code width (R45, R241, R246). Raised by
  `BD.FEED` and `BD.ELEMENT`. Safe. -/
  | noElementCodec
deriving DecidableEq, Repr

/-- The name the meanings' outcomes go by. -/
abbrev Outcome := Host.Outcome State Fault Refusal

/-- The capability record of a block that was never connected: R311 leaves it unspecified, the model names zeros (log
entry 3, DESIGN CHOICE, unsafe). -/
def Cap.unspecified : Cap :=
  { hdrVariant := 0, magicH2D := 0, magicD2H := 0, maxPkt := 0, opValid := ⟨false, []⟩, opTimeout := ⟨0, []⟩,
    opDelay := ⟨0, []⟩, sofTsPad := false }

/-- The reset value of a stream record (R310, R311). The configuration, calibration and synchronizer registers that
R311 leaves unspecified are zeros (log entry 3, DESIGN CHOICE, unsafe); the stores hold no value (log entry 4). -/
def Stream.reset : Stream :=
  { lock := none, job := none, cfgValid := false, conf := StreamConfig.zero, pstate := .awaitingConfiguration, ignLeft := 0,
    magicHalf := false, hdrCnt := 0, dataLeft := 0, dataOff := 0, hdr := [], lastSeq := 0, lossMark := false,
    lossFirst := false, lossLast := false, outLen := 0, trailPad := 0, corrupt := false, drop := false, frameId := 0,
    pktTime := 0, cont := [], contLen := 0, syFirst := true, syLref := 0, syTotal := 0, syLastTick := 0,
    syLastRes := 0, out := [], calValid := false, cal := CalRecord.zero, minCut := 0, maxCut := 0, s2d := [],
    d2s := [] }

/-- The ports with nothing supplied and nothing put out; raw sends succeed (log entry 7), free locks are granted. -/
def Io.quiet : Io :=
  { clock := { queue := [], rest := none, last := 0, reads := 0 }, sendQ := [], sendRest := some .ok, recvQ := [],
    grantLocks := true, trace := [] }

/-- The block right after reset, under the reference configuration (R310, R311; log entries 2, 3). -/
def State.reset : State :=
  { cfg := Config.ref, capValid := false, capVersion := ⟨0, 0, 0⟩, cap := Cap.unspecified, nextId := 0,
    cmdLock := none, exchange := none, ref := { valid := false, tick := 0, host := 0 }, clkLock := none,
    streams := List.replicate Config.ref.nStreams Stream.reset, io := Io.quiet, stimuli := [], held := [],
    admitted := [], choices := 0, ret := .none }

end Sys2Proof.Machine
end

