-- ==== Sys2Proof/Machine/Ops.lean ====
section
/-! DEFINITION. The operations over stores, ports, locks and streams that every meaning is written with: reading and
writing cells (R42, R60 to R62), raising an event (R271), the environment's answers (R10, R14), running an operation of
one stream under its lock (R72, R75), returning a result. -/

namespace Sys2Proof.Machine

/-! ### Stores -/

/-- The value of a cell, none where the store lists none. -/
def readCell {α : Type} : Cells α → Nat → Option α
  | [], _ => none
  | (b, w) :: rest, a => if a = b then some w else readCell rest a

/-- `MemRead(SPACE, a, n)` (R13): `n` cells from `a` up; a cell without a value is a fault (R21, U1). -/
def readCells {α : Type} (sp : Space) (m : Cells α) : Nat → Nat → Except Fault (List α)
  | _, 0 => .ok []
  | a, n + 1 =>
    match readCell m a with
    | none => .error (.unwritten sp a)
    | some v => do
      let vs ← readCells sp m (a + 1) n
      .ok (v :: vs)

/-- Write one cell, keeping the addresses strictly rising. -/
def writeCell {α : Type} : Cells α → Nat → α → Cells α
  | [], a, v => [(a, v)]
  | (b, w) :: rest, a, v =>
    if a < b then (a, v) :: (b, w) :: rest
    else if a = b then (a, v) :: rest
    else (b, w) :: writeCell rest a v

/-- `MemWrite(SPACE, a, n, v)` (R13): the values of a list from `a` up. -/
def writeCells {α : Type} : Cells α → Nat → List α → Cells α
  | m, _, [] => m
  | m, a, v :: vs => writeCells (writeCell m a v) (a + 1) vs

/-- A whole table as cells from `a` up (the build of R251 writes every cell). -/
def tableCells {α : Type} : Nat → List α → Cells α
  | _, [] => []
  | a, v :: vs => (a, v) :: tableCells (a + 1) vs

/-- The canonical form: addresses strictly rising. An unlisted address holds no value, so no listed entry can equal
it. -/
def cellsRising {α : Type} : Cells α → Bool
  | [] => true
  | [_] => true
  | (a, _) :: (b, w) :: rest => decide (a < b) && cellsRising ((b, w) :: rest)

/-- The canonical form as a proposition. -/
abbrev Cells.wf {α : Type} (m : Cells α) : Prop := cellsRising m = true

/-- The canonical form of a byte store. -/
abbrev Memory.wf (m : Memory) : Prop := cellsRising m = true

/-! ### Ports -/

/-- Put something out at a port. -/
def Io.emit (io : Io) (o : Output) : Io := { io with trace := io.trace ++ [o] }

/-- `raise E(info)` (R271): TAKING AN EVENT, the one entry all ten events share. It appends to the event trace; it saves
nothing, redirects nothing and changes no mode (R284), so there is no return beside it (R285). -/
def Io.raise (io : Io) (e : Event) : Io := io.emit (.event e)

/-- Raise an event where there is one. -/
def Io.raiseSome (io : Io) : Option Event → Io
  | none => io
  | some e => io.raise e

/-- What the environment answers the next host clock read with, before R14's order is imposed; none where it has
supplied nothing yet (R110; log entry 6). -/
def clockDraw (c : HostClock) : Option Micros :=
  match c.queue with
  | v :: _ => some v
  | [] => c.rest

/-- `HostClock()` (R13, R14): the answer is never below the previous one. None: the read waits (R18). -/
def hostClock (io : Io) : Option (Micros × Io) :=
  match clockDraw io.clock with
  | none => none
  | some draw =>
    let answer := if draw < io.clock.last then io.clock.last else draw
    some (answer, { io with clock :=
      { queue := io.clock.queue.tail, rest := io.clock.rest, last := answer, reads := io.clock.reads + 1 } })

/-- The next host clock read has an answer. -/
def clockReady (io : Io) : Bool := (clockDraw io.clock).isSome

/-- What the environment answers the next raw send with, none where it has supplied nothing (R110; log entry 7). -/
def sendDraw (io : Io) : Option SendAns :=
  match io.sendQ with
  | a :: _ => some a
  | [] => io.sendRest

/-- `RawSend(bytes, t)` (R13, R292). None: the send waits (R18). -/
def rawSend (io : Io) (bytes : List Byte) (timeout : Word) : Option (SendAns × Io) :=
  match sendDraw io with
  | none => none
  | some a => some (a, { io with sendQ := io.sendQ.tail, trace := io.trace ++ [.tx bytes timeout] })

/-! ### Numbers in 64-bit registers -/

/-- Write an integer to a 64-bit register; one that does not fit is a fault (R142, R222, U14). -/
def to64 (x : Int) : Except Fault (BitVec 64) :=
  if 0 ≤ x ∧ x < 18446744073709551616 then .ok (BitVec.ofNat 64 x.toNat) else .error .outOf64Bits

/-! ### One stream's operation -/

/-- What an operation of stream `sid` can see and change: its own record, the shared clock reference with its lock, and
the ports. The configuration and the capability record are read-only to it (R3, R20, R26). -/
structure RdCtx where
  sid : Nat
  cfg : Cfg
  cap : Cap
  ref : ClockRef
  clkLock : Option Agent
  st : Stream
  io : Io

/-- How far an operation of a stream came: to its end with a value, or to a point where it waits (R18). -/
inductive Run (α : Type) where
  | done (a : α) (v : RdCtx)
  | wait (w : TimeWait) (v : RdCtx)

/-- One part of an operation after another; a part that waits is as far as the operation comes. -/
def Run.bind {α β : Type} (r : Run α) (next : α → RdCtx → Except Fault (Run β)) : Except Fault (Run β) :=
  match r with
  | .done a v => next a v
  | .wait w v => .ok (.wait w v)

/-- Raise an event inside an operation of a stream. -/
def RdCtx.raise (v : RdCtx) (e : Event) : RdCtx := { v with io := v.io.raise e }

/-- Put something out inside an operation of a stream. -/
def RdCtx.emit (v : RdCtx) (o : Output) : RdCtx := { v with io := v.io.emit o }

/-- `STREAM_LOCK[s]` is held (R75). -/
def Stream.locked (st : Stream) : Bool := st.lock.isSome

/-- `RD[s]` executes an operation that waits (R281). -/
def Stream.inJob (st : Stream) : Bool := st.job.isSome

/-- `lock(STREAM_LOCK[s])` (R75). -/
def RdCtx.lock (v : RdCtx) (a : Agent) : RdCtx := { v with st := { v.st with lock := some a } }

/-- `unlock(STREAM_LOCK[s])` (R75). -/
def RdCtx.unlock (v : RdCtx) : RdCtx := { v with st := { v.st with lock := none } }

/-- Leave an operation of `RD[s]` in flight where it waits. -/
def RdCtx.park (v : RdCtx) (w : TimeWait) (u : TimeUser) : RdCtx := { v with st := { v.st with job := some ⟨w, u⟩ } }

/-- The view of stream `sid`, whose record is `st`. -/
def State.ctx (s : State) (sid : Nat) (st : Stream) : RdCtx :=
  { sid := sid, cfg := s.cfg, cap := s.cap, ref := s.ref, clkLock := s.clkLock, st := st, io := s.io }

/-- The state after an operation of a stream. -/
def State.withCtx (s : State) (v : RdCtx) : State :=
  { s with ref := v.ref, clkLock := v.clkLock, streams := s.streams.set v.sid v.st, io := v.io }

/-- Return a value from an internal operation. -/
def State.returns (s : State) (r : Ret) : State := { s with ret := r }

/-- Return a result at `HOSTOP` to the agent that asked (R10). -/
def State.reply (s : State) (a : Agent) (r : Ret) : State :=
  { s with ret := r, io := s.io.emit (.result a r) }

/-- Hold an operation before its first effect: it waits for its lock or its agent (R72, R281; log entries 12, 32). -/
def State.hold (s : State) (i : Instr) : State := { s with held := s.held ++ [i], ret := .waiting }

/-- Run an internal operation of stream `sid`. -/
def State.onStream (s : State) (sid : Nat) (f : RdCtx → Except Fault (Ret × RdCtx)) : Outcome :=
  match s.streams[sid]? with
  | none => .refused (.illFormed .noSuchStream)
  | some st =>
    match f (s.ctx sid st) with
    | .error e => .fault e
    | .ok (r, v) => .next ((s.withCtx v).returns r)

/-- Run an operation of `RD[sid]`, or hold it while `waits` says that it cannot begin. -/
def State.onReader (s : State) (i : Instr) (sid : Nat) (waits : Stream → Bool)
    (f : RdCtx → Except Fault (Ret × RdCtx)) : Outcome :=
  match s.streams[sid]? with
  | none => .refused (.illFormed .noSuchStream)
  | some st => if waits st then .next (s.hold i) else s.onStream sid f

/-- Run a host operation of stream `sid` for an agent of its row (R287), under `STREAM_LOCK[sid]` (R75), and return its
result at `HOSTOP`; hold it while the lock is held. -/
def State.onHost (s : State) (i : Instr) (allowed : Bool) (a : Agent) (sid : Nat)
    (f : RdCtx → Except Fault (Ret × RdCtx)) : Outcome :=
  if !allowed then .refused .wrongAgent
  else
    match s.streams[sid]? with
    | none => .refused (.illFormed .noSuchStream)
    | some st =>
      if st.locked then .next (s.hold i)
      else
        match f ((s.ctx sid st).lock a) with
        | .error e => .fault e
        | .ok (r, v) => .next ((s.withCtx v.unlock).reply a r)

end Sys2Proof.Machine
end

