-- ==== Sys2Proof/Machine/Operands.lean ====
section
/-! DEFINITION. Operand forms and views: the header fields (R32, R91), the padding counts of the overloaded timestamp
(R95), the packet classes (R94), the values derived from the configuration (R45), the extraction of a raw code (R241),
version order and capability lookup (R102, R26), and the domain of `CFG` (U13). -/

namespace Sys2Proof.Machine

/-- The header fields `H.*` (R32). -/
structure Header where
  magic : Half
  type : Half
  seq : Half
  size : Half
  ts : Tick
deriving DecidableEq, Repr

/-- The header fields as views of 12 bytes in order of arrival (R32, R91). -/
def headerOf (b : List Byte) : Header :=
  { magic := le16 (b.getD 0 0) (b.getD 1 0), type := le16 (b.getD 2 0) (b.getD 3 0),
    seq := le16 (b.getD 4 0) (b.getD 5 0), size := le16 (b.getD 6 0) (b.getD 7 0),
    ts := le32 (b.getD 8 0) (b.getD 9 0) (b.getD 10 0) (b.getD 11 0) }

/-- Read the header fields from `HDR[s]`; all 12 cells must hold a value (R21, R32). -/
def readHeader (hdr : Memory) : Except Fault Header := do
  let b ← readCells .hdr hdr 0 Config.hdrSize
  .ok (headerOf b)

/-- `LEAD` of the overloaded timestamp (R95). -/
def leadPad (ts : Tick) : Half := ts.extractLsb' 16 16

/-- `TRAIL` of the overloaded timestamp (R95). -/
def trailPadOf (ts : Tick) : Half := ts.extractLsb' 0 16

/-- `ELEM_IN[s]` (R45): bytes of an element, 1 for `PASS`; none for `XFORM`, which the spec gives no semantics (U9). -/
def elemIn (cfg : Cfg) : Codec → Option Nat
  | .pass => some 1
  | .unpack11 => some cfg.elemIn11
  | .unpack12 => some cfg.elemIn12
  | .xform => none

/-- `W[s]` (R45): the code width of an unpack codec; the other codecs have none. -/
def codeWidth : Codec → Option Nat
  | .pass => none
  | .unpack11 => some 11
  | .unpack12 => some 12
  | .xform => none

/-- `W[s]` and `ELEM_IN[s]` of a codec that packs samples (R45, R241). -/
def elemSpec (cfg : Cfg) (c : Codec) : Option (Nat × Nat) :=
  match codeWidth c, elemIn cfg c with
  | some w, some n => some (w, n)
  | _, _ => none

/-- `SAMPLE_BYTES[s]` (R45). For `XFORM` no rule gives it (R246, U9): a free value (log entry 33, DESIGN CHOICE). -/
def sampleBytes (cfg : Cfg) (c : StreamConfig) : Nat :=
  match c.codec with
  | .pass => c.pixBytes.toNat
  | .unpack11 => cfg.sampleBits / 8
  | .unpack12 => cfg.sampleBits / 8
  | .xform => Config.xformSampleBytes

/-- `EXPECTED[s]` (R45): bytes of a whole frame, from the crop rectangle where cropping is on. -/
def expectedBytes (cfg : Cfg) (c : StreamConfig) : Nat :=
  (if c.cropEn then c.cropW.toNat * c.cropH.toNat else c.xRes.toNat * c.yRes.toNat) * sampleBytes cfg c

/-- One sample as `n` bytes, low byte first (R63, R185, R244). Where `n` bytes do not hold its value (a 1-byte `PASS` sample
and a `NO_DATA` above 255) no rule gives the bytes: a free value (log entry 34, DESIGN CHOICE). -/
def storedSample (n value : Nat) : List Byte :=
  leBytes n (if value < 256 ^ n then value else Config.wideSample n value)

/-- One filler sample of `PR.PAD` as `n` bytes: `NO_DATA` (R185). -/
def fillerSample (cfg : Cfg) (n : Nat) : List Byte := storedSample n cfg.noData

/-- Samples of `n` bytes each (R63, R244). -/
def samplesBytes (n : Nat) (vs : List Half) : List Byte := (vs.map fun v => storedSample n v.toNat).flatten

/-- `raw(E, i)` (R241): sample `i` of an element of `n` bytes at width `w`, most significant bit first. -/
def rawCode (w n : Nat) (elem : List Byte) (i : Nat) : Nat :=
  beNat elem / 2 ^ (8 * n - w * i - w) % 2 ^ w

/-- The `ELEM_OUT` raw codes of an element, in order (R241). -/
def rawCodes (cfg : Cfg) (w n : Nat) (elem : List Byte) : List Nat :=
  (List.range cfg.elemOut).map (rawCode w n elem)

/-- The successor of a sequence id: `(x + 1) mod 2^SEQ_BITS` (R8, R142, R178). Only the successor is reduced: an id is
compared and kept with all 16 bits of its field (log entry 38, DESIGN CHOICE). -/
def nextSeq (cfg : Cfg) (x : Half) : Half := BitVec.ofNat 16 ((x.toNat + 1) % 2 ^ cfg.seqBits)

/-- The successor of a correlation id: `(x + 1) mod 2^ID_BITS` (R8, R123, R142). Only the successor is reduced: an id is
compared with all 16 bits of a reply's field (log entry 38, DESIGN CHOICE). -/
def nextCorrelation (cfg : Cfg) (x : Half) : Half := BitVec.ofNat 16 ((x.toNat + 1) % 2 ^ cfg.idBits)

/-- The span of one wrap of the device tick counter, in ticks (R8, R216, R291). -/
def wrapSpan (cfg : Cfg) : Int := 2 ^ cfg.tickBits

/-- What a device tick counter of `TICK_BITS` bits shows (R8, R291): of a 32-bit tick value, its low `TICK_BITS` bits (log
entry 38, DESIGN CHOICE). -/
def counterTick (cfg : Cfg) (tick : Tick) : Tick := BitVec.ofNat 32 (tick.toNat % 2 ^ cfg.tickBits)

/-- An agent of the block (R11, R298): a reader agent for each stream, any number of issuers, the host. -/
def agentExists (cfg : Cfg) (a : Agent) : Bool :=
  match a with
  | .host => true
  | .ci _ => true
  | .rd sid => decide (sid < cfg.nStreams)

/-- `a <= b` on version triples, lexicographic (R102). -/
def versionLe (a b : Version) : Bool :=
  decide (a.major < b.major) || (decide (a.major = b.major) &&
    (decide (a.minor < b.minor) || (decide (a.minor = b.minor) && decide (a.build ≤ b.build))))

/-- The value a per-opcode field of `CAP` has for an opcode (R26; log entry 19). -/
def opLookup {α : Type} (m : OpMap α) (op : Half) : α :=
  match m.exceptions.find? (fun e => e.1 == op) with
  | some e => e.2
  | none => m.base

/-- The low and the high byte of `CAP.MAGIC_D2H` (R128, R173). -/
def magicLo (cap : Cap) : Byte := loByte cap.magicD2H

/-- See `magicLo`. -/
def magicHi (cap : Cap) : Byte := hiByte cap.magicD2H

/-- The value of a depth formula for a calibration record and a raw code (R254). A quotient is rounded down, also by a
negative divisor (log entry 20, DESIGN CHOICE). -/
def depthExpr (cal : CalRecord) (c : Nat) : DepthExpr → Int
  | .const n => n
  | .code => c
  | .zpd => cal.zpd
  | .zpps => cal.zpps
  | .dcl => cal.dcl
  | .coeff i => cal.coeff.getD i 0
  | .add a b => depthExpr cal c a + depthExpr cal c b
  | .sub a b => depthExpr cal c a - depthExpr cal c b
  | .mul a b => depthExpr cal c a * depthExpr cal c b
  | .div a b => (depthExpr cal c a).fdiv (depthExpr cal c b)

/-- `DepthOf(cal, c)` (R254). -/
def depthValue (f : DepthFn) (cal : CalRecord) (c : Nat) : Int :=
  match f with
  | .affine offset slope => offset + slope * c
  | .listed depths => depths.getD c (-1)
  | .formula e => depthExpr cal c e
  | .device => Config.depthOf cal c

/-- The sizes of a codec element that hold together: whole elements of `ELEM_OUT` codes (R9), no larger than the 24 bytes of
`CONT` (R35). -/
def elementLegal (c : Cfg) : Bool :=
  decide (1 ≤ c.elemOut) && decide (8 * c.elemIn11 = 11 * c.elemOut) && decide (8 * c.elemIn12 = 12 * c.elemOut) &&
    decide (c.elemIn12 ≤ 24)

/-- A configuration in its domain (U13), whose retry bounds and element sizes fit the registers and cells the rules put them
in (R9, R28, R35), whose samples are whole bytes that hold a 16-bit cell and of an even number (R40, R44 (g), R45), and whose
largest reply body holds a status word (R97); log entry 25. -/
def cfgLegal (c : Cfg) : Bool :=
  decide (1 ≤ c.nStreams) && decide (1 ≤ c.freq) && decide (c.maxCode ≤ 65536) && decide (c.noData < 65536) &&
    decide (c.maxDepth < 65536) && decide (c.notReadyRetries ≤ 3) && decide (c.xportRetries ≤ 7) &&
    elementLegal c && (decide (16 ≤ c.sampleBits) && decide (c.sampleBits % 16 = 0)) && decide (2 ≤ c.bodyMax)

/-- The one combination of `CFG` and a stream's codec that U13 takes out of the domain: more than 2^11 codes with
`UNPACK11`. -/
def codecOutOfDomain (cfg : Cfg) (c : Codec) : Bool := decide (2048 < cfg.maxCode) && decide (c = .unpack11)

/-- A configuration record that `PR.CONFIGURE` accepts, but for the state of the parser (R162). -/
def configLegal (cfg : Cfg) (c : StreamConfig) : Bool :=
  decide (c.typeSof ≠ c.typeEof) && decide (c.codec ≠ .xform) &&
    (decide (1 ≤ c.pixBytes.toNat) && decide (c.pixBytes.toNat ≤ 4)) && decide (c.outCap.toNat ≤ cfg.outCapMax) &&
    (!c.cropEn || (decide (c.cropX.toNat + c.cropW.toNat ≤ c.xRes.toNat) &&
      decide (c.cropY.toNat + c.cropH.toNat ≤ c.yRes.toNat)))

end Sys2Proof.Machine
end

