-- ==== Sys2Proof/Machine/Flags.lean ====
section
/-! DEFINITION. The flags of R25 and the registers that change with them: the loss flags (R178, R179), the frame reset
(R181), the overflow (R186) and the write to `OUT` that may cause it, the corruption checks of end-of-frame (R184). -/

namespace Sys2Proof.Machine

/-- The sequence check of R178 on an id and the one expected: loss unless the id is 0 or the expected one. -/
def lossOf (expected seq : Half) : Bool := seq != 0 && seq != expected

/-- The loss flag update of R179. -/
def lossFlags (st : Stream) (isSof lossNow : Bool) : Stream :=
  { st with lossFirst := if isSof then lossNow else st.lossFirst, lossMark := st.lossMark || lossNow,
            lossLast := lossNow }

/-- `PR.FRAMERESET` (R181). The cells of `OUT` and `CONT` become unreadable with their lengths, so they are dropped (log
entry 5). -/
def frameReset (st : Stream) : Stream :=
  { st with outLen := 0, out := [], contLen := 0, cont := [], corrupt := false, drop := false, trailPad := 0,
            lossMark := false, lossFirst := false, lossLast := false }

/-- The register writes of `PR.OVERFLOW` (R186): buffering resets and the frame is corrupt. -/
def overflowFlags (st : Stream) : Stream :=
  { st with corrupt := true, drop := true, outLen := 0, out := [], contLen := 0, cont := [] }

/-- The two checks of `PR.EOF` (R184): stray continuation bytes, which are dropped, then the size of the frame. -/
def eofChecks (cfg : Cfg) (st : Stream) : Stream :=
  { st with corrupt := st.corrupt || st.contLen != 0 || decide (st.outLen.toNat ≠ expectedBytes cfg st.conf),
            contLen := 0, cont := [] }

/-- The parser registers back to their start, the header cells dropped (R163, R164, R176; log entry 5). -/
def parserReset (st : Stream) (p : PState) : Stream :=
  { st with pstate := p, magicHalf := false, hdrCnt := 0, hdr := [], dataLeft := 0, dataOff := 0 }

/-- `PR.OVERFLOW(s)` (R186). -/
def prOverflow (v : RdCtx) : RdCtx :=
  let v := v.raise (.outputBufferOverflow v.sid)
  { v with st := overflowFlags v.st }

/-- Append bytes to `OUT[s]` at the cursor, all or nothing; a write that does not fit is `PR.OVERFLOW` (R61, R186). -/
def appendOut (v : RdCtx) (bs : List Byte) : RdCtx :=
  let n := v.st.outLen.toNat
  if v.st.conf.outCap.toNat < n + bs.length then prOverflow v
  else { v with st := { v.st with out := writeCells v.st.out n bs, outLen := BitVec.ofNat 32 (n + bs.length) } }

/-- Connecting and disconnecting forget the synchronizers' history (R121, R122, R223). -/
def syForget (st : Stream) : Stream := { st with syFirst := true }

end Sys2Proof.Machine
end

