-- ==== Sys2Proof/Machine/CommandTransport.lean ====
section
/-! DEFINITION. The Command Transport (`41_command_transport.md`): the connection (`CT.CONNECT`, `CT.DISCONNECT`), one
command exchange (`CT.EXEC` and its internal operations), and the reply classes at `CTRL_RX`.

An exchange runs as far as the environment has answers for it. At a host clock read, a raw send or a raw receive that has
none it waits: its transient registers (R28) stay in State, `CMD_LOCK` stays held, other agents go on, and it is taken on
from that point once there is an answer (R18; log entries 8, 10). -/

namespace Sys2Proof.Machine

/-- What the command transport works with inside one exchange. -/
structure CtCtx where
  cfg : Cfg
  cap : Cap
  x : Exchange
  io : Io

/-- Raise an event inside an exchange. -/
def CtCtx.raise (c : CtCtx) (e : Event) : CtCtx := { c with io := c.io.raise e }

/-- Raise an event inside an exchange where there is one. -/
def CtCtx.raiseSome (c : CtCtx) (e : Option Event) : CtCtx := { c with io := c.io.raiseSome e }

/-- `CAP.OP_TIMEOUT[REQ_OP]` (R26, R135). -/
def CtCtx.timeout (c : CtCtx) : Word := opLookup c.cap.opTimeout c.x.reqOp

/-- A failed raw transaction (R10): its error kind and its event (R125, R126, R276). -/
inductive RawFail where
  | timeout
  | stall
deriving DecidableEq, Repr

/-- The error kind of a failure. -/
def RawFail.err : RawFail → ErrKind
  | .timeout => .transportTimeout
  | .stall => .transportStall

/-- The event of a failure. -/
def RawFail.event : RawFail → Event
  | .timeout => .transportTimeout
  | .stall => .transportStall

/-- The failure an answer of `RawSend` is, none for `Ok`. -/
def sendFail : SendAns → Option RawFail
  | .ok => none
  | .timeout => some .timeout
  | .stall => some .stall

/-- Where an internal operation stands after what it could do: waiting for the environment, at the point its exchange's
`CtPhase` names; done with a value; or ended by an error. -/
inductive Progress (α : Type) where
  | wait
  | done (a : α)
  | fail (k : ErrKind)
deriving DecidableEq, Repr

/-- The exchange waits for the answer of a raw receive. -/
def CtPhase.receives : CtPhase → Bool
  | .start => false
  | .send _ => false
  | .pollReply => false
  | .reply => true
  | .pollBody _ => false
  | .body _ => true

/-- The same loop, at its raw receive. -/
def CtPhase.receiving : CtPhase → CtPhase
  | .start => .reply
  | .send _ => .reply
  | .pollReply => .reply
  | .reply => .reply
  | .pollBody size => .body size
  | .body size => .body size

/-- Go on to a point of the exchange. -/
def CtCtx.at (c : CtCtx) (p : CtPhase) : CtCtx := { c with x := { c.x with phase := p } }

/-- The answers left for later receives. -/
def CtCtx.leave (c : CtCtx) (q : List RecvAns) : CtCtx := { c with io := { c.io with recvQ := q } }

/-- An answer a raw receive can have: at most `CAP.MAX_PKT` bytes (R28, R292, U3). -/
def answerFits (cap : Cap) : RecvAns → Bool
  | .data bytes => decide (bytes.length ≤ cap.maxPkt.toNat)
  | .timeout => true
  | .stall => true

/-- A raw receive is met by an answer that no environment gives (U3). -/
def CtCtx.blocked (c : CtCtx) : Bool :=
  match c.io.recvQ with
  | [] => false
  | a :: _ => c.x.phase.receives && !answerFits c.cap a

/-! ### Framing, sending, receiving -/

/-- `CT.FRAME(op, id, P)` (R92, R124). -/
def ctFrame (cap : Cap) (op id : Half) (payload : List Byte) : List Byte := frameBytes cap.magicH2D op id payload

/-- The loop of `CT.SENDR` (R125) with `left` repeats to go. -/
def sendLoop (bytes : List Byte) : Nat → CtCtx → Progress Unit × CtCtx
  | 0, c =>
    match rawSend c.io bytes c.timeout with
    | none => (.wait, c.at (.send bytes))
    | some (a, io) =>
      let c := { c with io := io }
      match sendFail a with
      | none => (.done (), c)
      | some f => (.fail f.err, c.raise f.event)
  | left + 1, c =>
    match rawSend c.io bytes c.timeout with
    | none => (.wait, c.at (.send bytes))
    | some (a, io) =>
      let c := { c with io := io }
      match sendFail a with
      | none => (.done (), c)
      | some _ => sendLoop bytes left { c with x := { c.x with xrCnt := c.x.xrCnt + 1 } }

/-- `CT.SENDR(B)` (R125). -/
def ctSendr (c : CtCtx) (bytes : List Byte) : Progress Unit × CtCtx :=
  sendLoop bytes c.cfg.xportRetries { c with x := { c.x with xrCnt := 0 } }

/-- `CT.SENDR` from the raw send it waited at, with the repeats it has left. -/
def sendAgain (c : CtCtx) (bytes : List Byte) : Progress Unit × CtCtx :=
  sendLoop bytes (c.cfg.xportRetries - c.x.xrCnt.toNat) c

/-- A failed raw receive inside `CT.RECVR` (R126): repeat while the bound allows, else the error of this failure. -/
def recvFailed (c : CtCtx) (f : RawFail) : Progress (List Byte) × CtCtx :=
  if c.cfg.xportRetries ≤ c.x.xrCnt.toNat then (.fail f.err, c.raise f.event)
  else (.wait, { c with x := { c.x with xrCnt := c.x.xrCnt + 1 } })

/-- One raw receive inside `CT.RECVR` (R126). -/
def recvAnswer (c : CtCtx) (a : RecvAns) : Progress (List Byte) × CtCtx :=
  let c := { c with io := c.io.emit (.rx c.timeout) }
  match a with
  | .data bytes => (.done bytes, { c with x := { c.x with rxBuf := bytes } })
  | .timeout => recvFailed c .timeout
  | .stall => recvFailed c .stall

/-- `CT.RECVR()` (R126) on the answers at hand. -/
def recvDrain : List RecvAns → CtCtx → Progress (List Byte) × CtCtx
  | [], c => (.wait, c.leave [])
  | a :: q, c =>
    if answerFits c.cap a then
      match recvAnswer c a with
      | (.wait, c) => recvDrain q c
      | (.done b, c) => (.done b, c.leave q)
      | (.fail k, c) => (.fail k, c.leave q)
    else (.wait, c.leave (a :: q))

/-- `CT.RECVR()` (R126), of the loop the exchange is in. -/
def ctRecvr (c : CtCtx) : Progress (List Byte) × CtCtx :=
  recvDrain c.io.recvQ { c with x := { c.x with xrCnt := 0, phase := c.x.phase.receiving } }

/-- The deadline test before a receive (R127, R130, R135), at the point `polling`: the error where the clock has passed it,
else on to the receive of the same loop. -/
def ctPoll {α : Type} (c : CtCtx) (polling : CtPhase) : Progress α × CtCtx :=
  match hostClock c.io with
  | none => (.wait, c.at polling)
  | some (now, io) =>
    let c := { c with io := io }
    if c.x.deadline ≤ now then (.fail .transportTimeout, c.raise .transportTimeout)
    else (.wait, { c with x := { c.x with xrCnt := 0, phase := polling.receiving } })

/-! ### Matching a reply -/

/-- The least offset at which two bytes stand next to each other. -/
def findPair (lo hi : Byte) : List Byte → Option Nat
  | [] => none
  | [_] => none
  | b0 :: b1 :: rest =>
    if b0 = lo ∧ b1 = hi then some 0
    else
      match findPair lo hi (b1 :: rest) with
      | none => none
      | some i => some (i + 1)

/-- `CT.SCAN(c)` (R128): its result and the cause of the mismatch it raises, if any. -/
def ctScan (cap : Cap) (chunk : List Byte) : ScanResult × Option MismatchCause :=
  match findPair (magicLo cap) (magicHi cap) chunk with
  | none => (.none, if chunk.isEmpty then none else some .magic)
  | some p =>
    if chunk.length - p < Config.cmdHdrSize then (.malformed, some .truncated)
    else
      match halfAt chunk (p + 2), halfAt chunk (p + 4), halfAt chunk (p + 6) with
      | some size, some op, some id =>
        if size.toNat < 2 then (.malformed, some .size) else (.hdr ⟨p, size, op, id⟩, none)
      | _, _, _ => (.malformed, some .truncated)

/-- `CT.MATCH` (R129): the id is tested before the opcode. -/
def ctMatch (x : Exchange) (h : ReplyHdr) : Bool × Option MismatchCause :=
  if h.id ≠ x.reqId then (false, some .id)
  else if h.op ≠ x.reqOp then (false, some .opcode)
  else (true, none)

/-- The event of a mismatch (R270). -/
def mismatch : Option MismatchCause → Option Event
  | none => none
  | some c => some (.protocolMismatch c)

/-! ### Gathering the body -/

/-- `BODY` and `BODY_LEN` with the bytes `d` appended (R130). Beyond `BODY_MAX` bytes (R8, R28) no rule states what `BODY` holds:
`BODY_MAX` bytes that are free, while `BODY_LEN` counts on (log entry 39, DESIGN CHOICE). -/
def bodyGrown (c : CtCtx) (d : List Byte) : CtCtx :=
  let n := c.x.bodyLen.toNat + d.length
  let body := if n ≤ c.cfg.bodyMax then c.x.body ++ d
    else (List.range c.cfg.bodyMax).map (Config.longBody c.io.clock.reads)
  { c with x := { c.x with body := body, bodyLen := BitVec.ofNat 16 n } }

/-- The loop head of `CT.GATHER` (R130): done once `S` bytes are there, else the deadline test and the next receive. -/
def gatherNext (c : CtCtx) (size : Half) : Progress (List Byte) × CtCtx :=
  if size ≤ c.x.bodyLen then (.done c.x.body, c) else ctPoll c (.pollBody size)

/-- The start of `CT.GATHER` (R130): the body bytes that came with the header. -/
def gatherStart (c : CtCtx) (chunk : List Byte) (h : ReplyHdr) : Progress (List Byte) × CtCtx :=
  let first := (chunk.drop (h.p + Config.cmdHdrSize)).take h.size.toNat
  gatherNext (bodyGrown { c with x := { c.x with body := [], bodyLen := 0 } } first) h.size

/-- One raw receive inside `CT.GATHER` (R130): continuation bytes verbatim, the surplus dropped (R98). -/
def gatherAnswer (c : CtCtx) (size : Half) (a : RecvAns) : Progress (List Byte) × CtCtx :=
  match recvAnswer c a with
  | (.wait, c) => (.wait, c)
  | (.fail k, c) => (.fail k, c)
  | (.done d, c) => gatherNext (bodyGrown c (d.take (size.toNat - c.x.bodyLen.toNat))) size

/-- `CT.GATHER` (R130) on the answers at hand, for as long as it waits for one. -/
def gatherDrain (size : Half) : List RecvAns → CtCtx → Progress (List Byte) × CtCtx
  | [], c => (.wait, c.leave [])
  | a :: q, c =>
    if c.x.phase.receives && answerFits c.cap a then
      match gatherAnswer c size a with
      | (.wait, c) => gatherDrain size q c
      | (.done b, c) => (.done b, c.leave q)
      | (.fail k, c) => (.fail k, c.leave q)
    else (.wait, c.leave (a :: q))

/-- `CT.GATHER(c, Hdr)` (R130). -/
def ctGather (c : CtCtx) (chunk : List Byte) (h : ReplyHdr) : Progress (List Byte) × CtCtx :=
  match gatherStart c chunk h with
  | (.wait, c) => gatherDrain h.size c.io.recvQ c
  | (.done b, c) => (.done b, c)
  | (.fail k, c) => (.fail k, c)

/-! ### The status -/

/-- The name of a NACK code that ends in `DeviceRejected` (R99). -/
def nackName (status : Half) : NackName :=
  match status.toNat with
  | 0x0003 => .crcMismatch
  | 0x0005 => .badParameters
  | 0x0007 => .fileNotFound
  | 0x000E => .overflow
  | 0x0010 => .fileSystemLocked
  | _ => .other

/-- The table of R99: the result of a status with its data, and the event raised (R131, R279). -/
def statusResult (status : Half) (data : List Byte) : ExecResult × Option Event :=
  if status = 0x0000 then (.ok data, none)
  else if status = 0x000D then (.err .deviceNotReady, some .deviceNotReady)
  else (.err (.deviceRejected (nackName status) status), some (.deviceRejected (nackName status) status))

/-- `CT.STATUS(Ok(BODY))` (R131). -/
def ctStatus (body : List Byte) : ExecResult × Option Event :=
  statusResult ((halfAt body 0).getD 0) (body.drop 2)

/-! ### One attempt -/

/-- The loop head of `CT.ATTEMPT` (R127): the deadline test, then the next receive. -/
def replyNext (c : CtCtx) : Progress ExecResult × CtCtx := ctPoll c .pollReply

/-- The end of `CT.ATTEMPT` (R127) once `CT.GATHER` has answered. -/
def gathered : Progress (List Byte) × CtCtx → Progress ExecResult × CtCtx
  | (.wait, c) => (.wait, c)
  | (.fail k, c) => (.fail k, c)
  | (.done body, c) =>
    let (r, e) := ctStatus body
    (.done r, c.raiseSome e)

/-- A chunk received in the loop of `CT.ATTEMPT` (R127): scanned, matched, and gathered, or discarded whole. -/
def chunkArrived (c : CtCtx) (chunk : List Byte) : Progress ExecResult × CtCtx :=
  let (r, cause) := ctScan c.cap chunk
  let c := c.raiseSome (mismatch cause)
  match r with
  | .none => replyNext c
  | .malformed => replyNext c
  | .hdr h =>
    let (ok, cause) := ctMatch c.x h
    let c := c.raiseSome (mismatch cause)
    if ok then gathered (gatherStart c chunk h) else replyNext c

/-- One raw receive of an exchange, in whichever loop it waits for one. -/
def attemptAnswer (c : CtCtx) (a : RecvAns) : Progress ExecResult × CtCtx :=
  match c.x.phase with
  | .body size => gathered (gatherAnswer c size a)
  | .reply =>
    match recvAnswer c a with
    | (.wait, c) => (.wait, c)
    | (.fail k, c) => (.fail k, c)
    | (.done chunk, c) => chunkArrived c chunk
  | .start => (.wait, c)
  | .send _ => (.wait, c)
  | .pollReply => (.wait, c)
  | .pollBody _ => (.wait, c)

/-- An attempt, taken on by the answers at hand for as long as it waits for one. -/
def attemptDrain : List RecvAns → CtCtx → Progress ExecResult × CtCtx
  | [], c => (.wait, c.leave [])
  | a :: q, c =>
    if c.x.phase.receives && answerFits c.cap a then
      match attemptAnswer c a with
      | (.wait, c) => attemptDrain q c
      | (.done r, c) => (.done r, c.leave q)
      | (.fail k, c) => (.fail k, c.leave q)
    else (.wait, c.leave (a :: q))

/-- An attempt that has come to one of its receives, or ended before. -/
def received : Progress ExecResult × CtCtx → Progress ExecResult × CtCtx
  | (.wait, c) => attemptDrain c.io.recvQ c
  | (.done r, c) => (.done r, c)
  | (.fail k, c) => (.fail k, c)

/-- `CT.ATTEMPT` (R127) once `CT.SENDR` has answered. -/
def attemptSent : Progress Unit × CtCtx → Progress ExecResult × CtCtx
  | (.wait, c) => (.wait, c)
  | (.fail k, c) => (.fail k, c)
  | (.done _, c) => received (replyNext c)

/-- `DEADLINE` of an attempt that starts at `now`, its start being the n-th clock read (R127, R135). A sum beyond 64 bits has
no rule (R142): a free value (log entry 23, DESIGN CHOICE). -/
def attemptDeadline (n : Nat) (now : Micros) (timeout : Word) : Micros :=
  if now.toNat + timeout.toNat < 18446744073709551616 then now + timeout.setWidth 64 else Config.lateDeadline n

/-- `CT.ATTEMPT()` (R127). -/
def ctAttempt (c : CtCtx) : Progress ExecResult × CtCtx :=
  match hostClock c.io with
  | none => (.wait, c.at .start)
  | some (now, io) =>
    let deadline := attemptDeadline c.io.clock.reads now c.timeout
    attemptSent (ctSendr { c with io := io, x := { c.x with deadline := deadline } } c.x.reqFrame)

/-- `CT.ATTEMPT` from where it waited (R18). -/
def attemptResume (c : CtCtx) : Progress ExecResult × CtCtx :=
  match c.x.phase with
  | .start => ctAttempt c
  | .send bytes => attemptSent (sendAgain c bytes)
  | .pollReply => received (replyNext c)
  | .reply => received (.wait, c)
  | .pollBody size => received (gathered (gatherNext c size))
  | .body _ => received (.wait, c)

/-! ### The whole exchange -/

/-- The result an attempt ended with, none while it waits. -/
def Progress.result : Progress ExecResult → Option ExecResult
  | .wait => none
  | .done r => some r
  | .fail k => some (.err k)

/-- The not-ready loop of `CT.EXEC` (R123, R132) with `left` repeats to go: none while the exchange waits. -/
def execLoop : Nat → Progress ExecResult × CtCtx → Option ExecResult × CtCtx
  | 0, (p, c) => (p.result, c)
  | left + 1, (p, c) =>
    if p.result = some (.err .deviceNotReady) then
      execLoop left (ctAttempt { c with x := { c.x with nrCnt := c.x.nrCnt + 1 },
                                        io := c.io.emit (.delay c.cfg.notReadyBackoffUs) })
    else (p.result, c)

/-- The not-ready repeats an exchange has left. -/
def repeatsLeft (c : CtCtx) : Nat := c.cfg.notReadyRetries - c.x.nrCnt.toNat

/-- The inter-command delay of a successful command (R123, R134): it changes nothing but the trace (R331). -/
def afterCommand (cap : Cap) (op : Half) (r : ExecResult) (io : Io) : Io :=
  match r with
  | .ok _ => if opLookup cap.opDelay op = 0 then io else io.emit (.delay (opLookup cap.opDelay op).toNat)
  | .err _ => io

/-- The end of `CT.EXEC` (R123): unlock and return, or stay in flight. -/
def State.settle (s : State) (out : Option ExecResult × CtCtx) : Outcome :=
  match out with
  | (none, c) =>
    if c.blocked then .refused .oversizeAnswer
    else .next { s with exchange := some c.x, io := c.io, ret := .waiting }
  | (some r, c) =>
    let io := afterCommand s.cap c.x.reqOp r c.io
    .next ({ s with exchange := none, cmdLock := none, io := io }.reply c.x.owner (.exec r))

/-- The view of the exchange `x` in flight. -/
def State.ctCtx (s : State) (x : Exchange) : CtCtx := { cfg := s.cfg, cap := s.cap, x := x, io := s.io }

/-- The transient registers of an exchange that is about to begin (R123, R28). `XR_CNT`, `DEADLINE`, `RXBUF`, `BODY` and
`BODY_LEN`, which no rule has written yet, start at 0 and empty (log entry 40, DESIGN CHOICE). -/
def newExchange (s : State) (a : Agent) (op : Half) (payload : List Byte) : Exchange :=
  { owner := a, reqOp := op, reqId := s.nextId, reqFrame := ctFrame s.cap op s.nextId payload, nrCnt := 0, xrCnt := 0,
    deadline := 0, rxBuf := [], body := [], bodyLen := 0, phase := .start }

/-- The request of a payload does not fit one raw send: `8 + L > CAP.MAX_PKT` (R100, R124, U11). -/
def oversize (cap : Cap) (payload : List Byte) : Bool :=
  decide (cap.maxPkt.toNat < Config.cmdHdrSize + payload.length)

/-- An admitted `CT.EXEC` with the lock won (R123): the id is taken, the frame is built (`CT.FRAME`, which refuses an
oversize request), the attempts begin. -/
def State.beginExchange (s : State) (a : Agent) (op : Half) (payload : List Byte) : Outcome :=
  if oversize s.cap payload then .refused .oversizeRequest
  else
    let s' := { s with cmdLock := some a, nextId := nextCorrelation s.cfg s.nextId }
    let c := s'.ctCtx (newExchange s a op payload)
    s'.settle (execLoop (repeatsLeft c) (ctAttempt c))

/-- Take the exchange in flight on from where it waits; without an exchange there is nothing to do. -/
def State.resumeExchange (s : State) : Outcome :=
  match s.exchange with
  | none => .next s
  | some x =>
    let next := attemptResume (s.ctCtx x)
    s.settle (execLoop (repeatsLeft next.2) next)

/-- The environment has an answer for the exchange where it waits. -/
def exchangeReady (io : Io) (x : Exchange) : Bool :=
  match x.phase with
  | .start => clockReady io
  | .send _ => (sendDraw io).isSome
  | .pollReply => clockReady io
  | .reply => !io.recvQ.isEmpty
  | .pollBody _ => clockReady io
  | .body _ => !io.recvQ.isEmpty

/-- The exchange in flight waits for a raw receive. -/
def State.receiving (s : State) : Bool :=
  match s.exchange with
  | none => false
  | some x => x.phase.receives

/-- Answers at `CTRL_RX` (R10, R292): they queue in order, and take on an exchange that waits for one; else they stay in the
environment's channel until a later receive (U21, R139). -/
def State.receive (s : State) (answers : List RecvAns) : Outcome :=
  let s := { s with io := { s.io with recvQ := s.io.recvQ ++ answers } }
  if s.receiving then s.resumeExchange else .next s

/-- `CMD_LOCK` is held (R27). -/
def State.cmdHeld (s : State) : Bool := s.cmdLock.isSome

/-! ### The connection -/

/-- Some stream is not in `AwaitingConfiguration` (R121, R122). -/
def State.anyArmed (s : State) : Bool := s.streams.any fun st => decide (st.pstate ≠ .awaitingConfiguration)

/-- Two rows of a capability table have equal thresholds (R121). -/
def repeatedThreshold : List CapRow → Bool
  | [] => false
  | r :: rs => rs.any (fun q => decide (q.threshold = r.threshold)) || repeatedThreshold rs

/-- The row with the greatest threshold not above the version (R102, R121): the pure function `capabilitiesFor` (R137). -/
def capabilitiesFor (v : Version) : List CapRow → Option CapRow
  | [] => none
  | r :: rs =>
    match capabilitiesFor v rs with
    | none => if versionLe r.threshold v then some r else none
    | some best =>
      if versionLe r.threshold v && versionLe best.threshold r.threshold then some r else some best

/-- The row `CT.CONNECT` selects, none where it refuses (R121). -/
def connectRow (s : State) (v : Version) (table : List CapRow) : Option CapRow :=
  if s.capValid || s.cmdHeld || s.anyArmed || repeatedThreshold table then none
  else
    match capabilitiesFor v table with
    | none => none
    | some r => if r.caps.hdrVariant ≠ 0 || r.caps.maxPkt.toNat < 10 then none else some r

/-- `CT.CONNECT(v, T)` (R121): its result and the state after. -/
def ctConnect (s : State) (v : Version) (table : List CapRow) : Ret × State :=
  match connectRow s v table with
  | none => (.refused, s)
  | some r =>
    (.ok, { s with cap := r.caps, capVersion := v, capValid := true, nextId := 0,
                   ref := { s.ref with valid := false }, streams := s.streams.map syForget })

/-- The condition of `CT.DISCONNECT` (R122). -/
def disconnectLegal (s : State) : Bool := s.capValid && !s.cmdHeld && !s.anyArmed

/-- `CT.DISCONNECT()` (R122). -/
def ctDisconnect (s : State) : Ret × State :=
  if disconnectLegal s then
    (.ok, { s with capValid := false, ref := { s.ref with valid := false }, streams := s.streams.map syForget })
  else (.refused, s)

/-! ### The meanings -/

/-- `CT.CONNECT` (R121): agent `HOST`. It takes no lock and waits for nothing (R149), a time conversion that waits included
(log entry 37). -/
def execCtConnect (a : Agent) (v : Version) (table : List CapRow) (s : State) : Outcome :=
  if a ≠ .host then .refused .wrongAgent
  else
    let (r, s') := ctConnect s v table
    .next (s'.reply a r)

/-- `CT.DISCONNECT` (R122): agent `HOST`; it waits for nothing (R149, log entry 37). -/
def execCtDisconnect (a : Agent) (s : State) : Outcome :=
  if a ≠ .host then .refused .wrongAgent
  else
    let (r, s') := ctDisconnect s
    .next (s'.reply a r)

/-- The agent is a command issuer (R287). -/
def isIssuer : Agent → Bool
  | .ci _ => true
  | .host => false
  | .rd _ => false

/-- `CT.EXEC` (R123): agent `CI[k]`. The capability test comes before the size, the lock and the id. At a `CMD_LOCK` that is
held, or not granted yet, the command waits as admitted (R72, R76). -/
def execCtExec (a : Agent) (op : Half) (payload : List Byte) (s : State) : Outcome :=
  if !isIssuer a then .refused .wrongAgent
  else if !s.capValid || !opLookup s.cap.opValid op then
    .next ({ s with io := s.io.raise (.unsupportedOpcode op) }.reply a (.exec (.err .unsupportedOpcode)))
  else if oversize s.cap payload then .refused .oversizeRequest
  else if s.cmdHeld || !s.io.grantLocks then
    .next { s with admitted := s.admitted ++ [⟨a, op, payload⟩], ret := .waiting }
  else s.beginExchange a op payload

/-- `CT.FRAME` (R124): the frame is the value returned. `CT.EXEC` alone puts it in `REQ_FRAME`, once (R28, R123). -/
def execCtFrame (op id : Half) (payload : List Byte) (s : State) : Outcome :=
  if oversize s.cap payload then .refused .oversizeRequest
  else .next (s.returns (.bytes (ctFrame s.cap op id payload)))

/-- Run an internal operation of the exchange in flight; outside a `CT.EXEC` its registers do not exist (R28). Where it waits,
the exchange waits at that point, and is taken on from it (log entry 17). -/
def State.onExchange (s : State) (f : CtCtx → Ret × CtCtx) : Outcome :=
  match s.exchange with
  | none => .refused .noExchange
  | some x =>
    let (r, c) := f (s.ctCtx x)
    if decide (r = .waiting) && c.blocked then .refused .oversizeAnswer
    else .next ({ s with exchange := some c.x, io := c.io }.returns r)

/-- What an internal operation returns, `value` being what it returns for what it obtained. -/
def progressRet {α : Type} (value : α → Ret) : Progress α → Ret
  | .wait => .waiting
  | .done b => value b
  | .fail k => .err k

/-- What `CT.ATTEMPT` returns. -/
def attemptRet (p : Progress ExecResult) : Ret :=
  match p.result with
  | none => .waiting
  | some r => .exec r

/-- `CT.SENDR` (R125), of bytes that fit one raw send (R124, R292). -/
def execCtSendr (frame : List Byte) (s : State) : Outcome :=
  if s.cap.maxPkt.toNat < frame.length then .refused .oversizeRequest
  else
    s.onExchange fun c =>
      let (p, c) := ctSendr c frame
      (progressRet (fun _ => .ok) p, c)

/-- `CT.RECVR` (R126). -/
def execCtRecvr (s : State) : Outcome :=
  s.onExchange fun c =>
    let (p, c) := ctRecvr c
    (progressRet .bytes p, c)

/-- `CT.ATTEMPT` (R127). -/
def execCtAttempt (s : State) : Outcome :=
  s.onExchange fun c =>
    let (p, c) := ctAttempt c
    (attemptRet p, c)

/-- `CT.SCAN` (R128). -/
def execCtScan (chunk : List Byte) (s : State) : Outcome :=
  let (r, cause) := ctScan s.cap chunk
  .next ({ s with io := s.io.raiseSome (mismatch cause) }.returns (.scan r))

/-- `CT.MATCH` (R129). -/
def execCtMatch (hdr : ReplyHdr) (s : State) : Outcome :=
  s.onExchange fun c =>
    let (ok, cause) := ctMatch c.x hdr
    (.flag ok, c.raiseSome (mismatch cause))

/-- `CT.GATHER` (R130). -/
def execCtGather (chunk : List Byte) (hdr : ReplyHdr) (s : State) : Outcome :=
  s.onExchange fun c =>
    let (p, c) := ctGather c chunk hdr
    (progressRet .bytes p, c)

/-- `CT.STATUS` (R131), of a body that holds a status word. -/
def execCtStatus (body : List Byte) (s : State) : Outcome :=
  if body.length < 2 then .refused (.illFormed .noStatus)
  else
    let (r, e) := ctStatus body
    .next ({ s with io := s.io.raiseSome e }.returns (.exec r))

/-- A reply arriving at `CTRL_RX` as one chunk, from its magic on (R97): the answer of the next raw receive. -/
def replyAt (size op id status : Half) (data : List Byte) (s : State) : Outcome :=
  (s.returns .none).receive [.data (replyBytes s.cap.magicD2H size op id status data)]

/-- `RSP.ACK` (R99, R131). -/
def execRspAck (size op id : Half) (data : List Byte) (s : State) : Outcome := replyAt size op id 0x0000 data s

/-- `RSP.NACK_CRC` (R99, R131). -/
def execRspNackCrc (size op id : Half) (data : List Byte) (s : State) : Outcome := replyAt size op id 0x0003 data s

/-- `RSP.NACK_BAD_PARAMS` (R99, R131). -/
def execRspNackBadParams (size op id : Half) (data : List Byte) (s : State) : Outcome :=
  replyAt size op id 0x0005 data s

/-- `RSP.NACK_FILE_NOT_FOUND` (R99, R131). -/
def execRspNackFileNotFound (size op id : Half) (data : List Byte) (s : State) : Outcome :=
  replyAt size op id 0x0007 data s

/-- `RSP.NACK_NOT_READY` (R99, R131, R132). -/
def execRspNackNotReady (size op id : Half) (data : List Byte) (s : State) : Outcome :=
  replyAt size op id 0x000D data s

/-- `RSP.NACK_OVERFLOW` (R99, R131). -/
def execRspNackOverflow (size op id : Half) (data : List Byte) (s : State) : Outcome :=
  replyAt size op id 0x000E data s

/-- `RSP.NACK_FS_LOCKED` (R99, R131). -/
def execRspNackFsLocked (size op id : Half) (data : List Byte) (s : State) : Outcome :=
  replyAt size op id 0x0010 data s

/-- `RSP.NACK_OTHER` (R99, R131). -/
def execRspNackOther (size op id status : Half) (data : List Byte) (s : State) : Outcome :=
  replyAt size op id status data s

end Sys2Proof.Machine
end

