-- ==== Sys2Proof/Machine/BitDepthCodec.lean ====
section
/-! DEFINITION. The Bit Depth Codec (`44_bit_depth_codec.md`): `BD.MAP`, `BD.ELEMENT`, `BD.FEED`, `BD.UNPACK`,
`BD.CALIBRATE`, `BD.READTABLE`. -/

namespace Sys2Proof.Machine

/-- `BD.MAP(s, r)` (R245). -/
def bdMap (v : RdCtx) (r : Nat) : Except Fault Half :=
  if v.cfg.maxCode ≤ r then .ok (BitVec.ofNat 16 v.cfg.noData)
  else if v.st.conf.lutEn then
    match readCell v.st.s2d r with
    | some d => .ok d
    | none => .error (.unwritten .s2d r)
  else .ok (BitVec.ofNat 16 r)

/-- `BD.MAP` of each code of a list. -/
def mapCodes (v : RdCtx) : List Nat → Except Fault (List Half)
  | [] => .ok []
  | r :: rs => do
    let x ← bdMap v r
    let xs ← mapCodes v rs
    .ok (x :: xs)

/-- `BD.ELEMENT(s, E, LIST)` (R244) at width `w` and element size `n`. -/
def bdElementList (v : RdCtx) (w n : Nat) (elem : List Byte) : Except Fault (List Half) :=
  mapCodes v (rawCodes v.cfg w n elem)

/-- `BD.ELEMENT(s, E, OUT)` (R244): the samples go to `OUT[s]`, low byte first, all or nothing. -/
def bdElementOut (v : RdCtx) (w n : Nat) (elem : List Byte) : Except Fault RdCtx := do
  let samples ← bdElementList v w n elem
  .ok (appendOut v (samplesBytes (v.cfg.sampleBits / 8) samples))

/-- The whole elements of `BD.FEED` (R243): decode `k` of them from the front of `bytes`; what is left of `bytes`, none
after an overflow. -/
def feedElements (w n : Nat) : Nat → RdCtx → List Byte → Except Fault (RdCtx × Option (List Byte))
  | 0, v, bytes => .ok (v, some bytes)
  | k + 1, v, bytes => do
    let v ← bdElementOut v w n (bytes.take n)
    if v.st.drop then .ok (v, none) else feedElements w n k v (bytes.drop n)

/-- The end of `BD.FEED` (R243): whole elements of `bytes`, then the remainder into the empty `CONT[s]`. -/
def feedWhole (v : RdCtx) (w n : Nat) (bytes : List Byte) : Except Fault RdCtx := do
  let (v, rest) ← feedElements w n (bytes.length / n) v bytes
  match rest with
  | none => .ok v
  | some r => .ok { v with st := { v.st with cont := writeCells [] 0 r, contLen := BitVec.ofNat 5 r.length } }

/-- `BD.FEED(s, D)` (R243). -/
def bdFeed (v : RdCtx) (w n : Nat) (bytes : List Byte) : Except Fault RdCtx :=
  let c := v.st.contLen.toNat
  if c = 0 then feedWhole v w n bytes
  else do
    let m := min bytes.length (n - c)
    let cont := writeCells v.st.cont c (bytes.take m)
    if c + m < n then
      .ok { v with st := { v.st with cont := cont, contLen := BitVec.ofNat 5 (c + m) } }
    else do
      let elem ← readCells .cont cont 0 n
      let v ← bdElementOut { v with st := { v.st with cont := cont, contLen := BitVec.ofNat 5 (c + m) } } w n elem
      if v.st.drop then .ok v
      else feedWhole { v with st := { v.st with cont := [], contLen := 0 } } w n (bytes.drop m)

/-- The decoding loop of `BD.UNPACK` (R242): `k` whole elements from the front of the input. -/
def unpackElements (v : RdCtx) (w n : Nat) : Nat → List Byte → Except Fault (List Half)
  | 0, _ => .ok []
  | k + 1, bytes => do
    let here ← bdElementList v w n (bytes.take n)
    let rest ← unpackElements v w n k (bytes.drop n)
    .ok (here ++ rest)

/-- `BD.UNPACK(s, I)` (R242); it writes no state. -/
def bdUnpack (v : RdCtx) (input : List Byte) : Except Fault (Ret × RdCtx) :=
  if !v.st.cfgValid || decide (v.st.conf.codec = .pass) || (v.st.conf.lutEn && !v.st.calValid) then .ok (.refused, v)
  else
    match elemSpec v.cfg v.st.conf.codec with
    | none => .error .codecUnspecified
    | some (w, n) => do
      let q := input.length / n
      let out ← unpackElements v w n q input
      .ok (.unpacked (q * n) out, v)

/-- A code that the build of R251 accepts after `lastDepth`. -/
def codeAccepted (cfg : Cfg) (mn mx : Half) (lastDepth : Nat) (d : Int) : Bool :=
  decide ((mn.toNat : Int) ≤ d) && decide (d ≤ (mx.toNat : Int)) && decide (d ≤ (cfg.maxDepth : Int)) &&
    decide ((lastDepth : Int) ≤ d)

/-- The `S2D` cells of the codes of a list, ascending, and the `D2S` cells from `lastDepth` up (R251). -/
def buildTables (cfg : Cfg) (cal : CalRecord) (mn mx : Half) : List Nat → Nat → Nat → List Half × List Half
  | [], lastCode, lastDepth => ([], List.replicate (cfg.maxDepth + 1 - lastDepth) (BitVec.ofNat 16 lastCode))
  | c :: cs, lastCode, lastDepth =>
    let d := depthValue cfg.depthOf cal c
    if codeAccepted cfg mn mx lastDepth d then
      let rest := buildTables cfg cal mn mx cs c d.toNat
      (BitVec.ofNat 16 d.toNat :: rest.1,
        List.replicate (d.toNat - lastDepth) (BitVec.ofNat 16 lastCode) ++ rest.2)
    else
      let rest := buildTables cfg cal mn mx cs lastCode lastDepth
      (BitVec.ofNat 16 cfg.noData :: rest.1, rest.2)

/-- `BD.CALIBRATE(s, cal, mn, mx)` (R250, R251). -/
def bdCalibrate (v : RdCtx) (cal : CalRecord) (mn mx : Half) : RdCtx :=
  let tables := buildTables v.cfg cal mn mx (List.range v.cfg.maxCode) 0 0
  { v with st := { v.st with cal := cal, minCut := mn, maxCut := mx, s2d := tableCells 0 tables.1,
                             d2s := tableCells 0 tables.2, calValid := true } }

/-- `BD.READTABLE(s, which, idx)` (R253). -/
def bdReadtable (v : RdCtx) (which : TableSel) (idx : Nat) : Except Fault Ret :=
  if !v.st.calValid then .ok .refused
  else
    match which with
    | .s2d =>
      if v.cfg.maxCode ≤ idx then .ok .refused
      else
        match readCell v.st.s2d idx with
        | some c => .ok (.cell c)
        | none => .error (.unwritten .s2d idx)
    | .d2s =>
      if v.cfg.maxDepth < idx then .ok .refused
      else
        match readCell v.st.d2s idx with
        | some c => .ok (.cell c)
        | none => .error (.unwritten .d2s idx)

/-! ### The meanings -/

/-- `BD.CALIBRATE` (R250): agent `HOST`, any parser state. -/
def execBdCalibrate (a : Agent) (sid : Nat) (cal : CalRecord) (mn mx : Half) (s : State) : Outcome :=
  s.onHost (.bdCalibrate a sid cal mn mx) (decide (a = .host)) a sid
    fun v => .ok (.ok, bdCalibrate v cal mn mx)

/-- `BD.READTABLE` (R253): agent `HOST`. -/
def execBdReadtable (a : Agent) (sid : Nat) (which : TableSel) (idx : Nat) (s : State) : Outcome :=
  s.onHost (.bdReadtable a sid which idx) (decide (a = .host)) a sid
    fun v => do
      let r ← bdReadtable v which idx
      .ok (r, v)

/-- `BD.UNPACK` (R242): any agent of the block (R287, R298). -/
def execBdUnpack (a : Agent) (sid : Nat) (input : List Byte) (s : State) : Outcome :=
  s.onHost (.bdUnpack a sid input) (agentExists s.cfg a) a sid fun v => bdUnpack v input

/-- `BD.FEED` (R243), on a stream with an unpack codec. Its precondition `DROP = 0` is not tested: where `DROP` is 1 the
pseudocode runs as it stands, to the first test of `DROP` (log entry 35, DESIGN CHOICE). -/
def execBdFeed (sid : Nat) (bytes : List Byte) (s : State) : Outcome :=
  match s.streams[sid]? with
  | none => .refused (.illFormed .noSuchStream)
  | some st =>
    match elemSpec s.cfg st.conf.codec with
    | none => .refused .noElementCodec
    | some (w, n) => s.onStream sid fun v => do
      let v ← bdFeed v w n bytes
      .ok (.none, v)

/-- `BD.ELEMENT` (R244), on a stream with an unpack codec, of an element of its size. -/
def execBdElement (sid : Nat) (elem : List Byte) (mode : ElemMode) (s : State) : Outcome :=
  match s.streams[sid]? with
  | none => .refused (.illFormed .noSuchStream)
  | some st =>
    match elemSpec s.cfg st.conf.codec with
    | none => .refused .noElementCodec
    | some (w, n) =>
      if elem.length ≠ n then .refused (.illFormed .notAnElement)
      else
        match mode with
        | .list => s.onStream sid fun v => do
          let vs ← bdElementList v w n elem
          .ok (.samples vs, v)
        | .out => s.onStream sid fun v => do
          let v ← bdElementOut v w n elem
          .ok (.none, v)

/-- `BD.MAP` (R245). That the stream has an unpack codec is not tested: started on its own on a `PASS` or `XFORM` stream, for
which no rule gives it a meaning (R30, R246, R255), its pseudocode runs as it stands, `LUT_EN` and `S2D` included (log entry
35, DESIGN CHOICE). -/
def execBdMap (sid : Nat) (code : Half) (s : State) : Outcome :=
  s.onStream sid fun v => do
    let x ← bdMap v code.toNat
    .ok (.cell x, v)

end Sys2Proof.Machine
end

