-- ==== Sys2Proof/Machine/ClockSynchronizer.lean ====
section
/-! DEFINITION. The Clock Synchronizer (`43_clock_synchronizer.md`): `CS.ESTABLISH`, `CS.INIT`, `CS.ADVANCE`, `CS.RESYNC`,
`CS.TOHOST`, `CS.HOSTONLY`. Arithmetic is over the integers (R210, R222); a register write that does not fit is a fault.

An operand tick is taken as what the device's counter shows (`counterTick`). A conversion goes as far as it can: to its
result, or to a host clock read that has no answer yet, or to a `CLK_LOCK` that another agent holds (R18). There it waits, and
the operation `TimeOp` it belongs to is taken on from that point. -/

namespace Sys2Proof.Machine

/-- The tick a conversion works with; `CS.HOSTONLY` establishes with tick 0 (R219). -/
def TimeOp.tick : TimeOp → Tick
  | .tohost t => t
  | .hostonly => 0
  | .establish t => t
  | .init t => t

/-! ### The reference -/

/-- `CS.ESTABLISH` (R212) inside the lock: the second check, the clock read, the reference as one step (R79), the
unlock. -/
def csReference (op : TimeOp) (v : RdCtx) : Run Unit :=
  if v.ref.valid then .done () { v with clkLock := none }
  else
    match hostClock v.io with
    | none => .wait ⟨op, .reference⟩ v
    | some (now, io) =>
      .done () { v with ref := { valid := true, tick := op.tick, host := now }, io := io, clkLock := none }

/-- `CS.ESTABLISH(t)` (R212): the reader agent takes `CLK_LOCK`, or waits at it (R72, R74). -/
def csEstablish (op : TimeOp) (v : RdCtx) : Run Unit :=
  if v.clkLock.isSome || !v.io.grantLocks then .wait ⟨op, .lock⟩ v
  else csReference op { v with clkLock := some (.rd v.sid) }

/-! ### One stream's tick count -/

/-- Elapsed host time since the reference in ticks, `e_tk` (R213, R214). -/
def elapsedTicks (freq : Nat) (refHost now : Micros) : Int :=
  ((now.toNat : Int) - refHost.toNat) * freq

/-- The corrected wrap count `w` of R213 before the clamp, for a wrap of `span` ticks: the rough estimate, corrected once by
at most 1. -/
def wrapCount (span eTk : Int) (tick refTick : Tick) : Int :=
  let w0 := eTk / span
  let est := w0 * span + tick.toNat - refTick.toNat
  if est < eTk - span / 2 then w0 + 1
  else if eTk + span / 2 < est then w0 - 1
  else w0

/-- The clamp condition of R215. -/
def wrapClamped (w : Int) (tick refTick : Tick) : Bool :=
  decide (w < 0) || (decide (w = 0) && decide (tick < refTick))

/-- `CS.INIT(s, tick)` (R213) once the host clock has answered `now`, but for `SY_FIRST` (`csInit`). The pseudocode's
"requires `REF_VALID = 1`" is not tested: it runs on whatever `REF_TICK` and `REF_HOST` hold (log entry 35, DESIGN
CHOICE). -/
def csInitAt (v : RdCtx) (tick : Tick) (now : Micros) : Except Fault (Micros × RdCtx) := do
  let w := wrapCount (wrapSpan v.cfg) (elapsedTicks v.cfg.freq v.ref.host now) tick v.ref.tick
  let clamped := wrapClamped w tick v.ref.tick
  let t' := if clamped then v.ref.tick else tick
  let total ← to64 ((if clamped then 0 else w) * wrapSpan v.cfg)
  let res ← to64 (((total.toNat : Int) + t'.toNat - v.ref.tick.toNat) / v.cfg.freq)
  .ok (res, { v with st := { v.st with syLref := v.ref.tick, syTotal := total, syLastTick := t' } })

/-- `CS.INIT(s, tick)` (R213) from its host clock read on, or waiting at that read. -/
def csInitRead (op : TimeOp) (v : RdCtx) : Except Fault (Run Micros) :=
  match hostClock v.io with
  | none => .ok (.wait ⟨op, .clock⟩ v)
  | some (now, io) => do
    let (us, v) ← csInitAt { v with io := io } op.tick now
    .ok (.done us v)

/-- `CS.INIT(s, tick)` (R213). It clears `SY_FIRST` in one step with the test of `SY_FIRST` before it (R18), so that whoever sets
`SY_FIRST` while it waits at its clock read has set it after (log entries 37, DEDUCED, and 41, DESIGN CHOICE). -/
def csInit (op : TimeOp) (v : RdCtx) : Except Fault (Run Micros) :=
  csInitRead op { v with st := { v.st with syFirst := false } }

/-- `CS.ADVANCE(s, tick)` (R216): a tick that is not greater than the last one counts as a wrap. The pseudocode's "requires
`SY_FIRST = 0`" is not tested: it runs on whatever the `SY_*` registers hold (log entry 35, DESIGN CHOICE). -/
def csAdvance (v : RdCtx) (tick : Tick) : Except Fault (Micros × RdCtx) := do
  let total ← to64 ((v.st.syTotal.toNat : Int) + (if v.st.syLastTick < tick then 0 else wrapSpan v.cfg))
  let res ← to64 (((total.toNat : Int) + tick.toNat - v.st.syLref.toNat) / v.cfg.freq)
  .ok (res, { v with st := { v.st with syTotal := total, syLastTick := tick } })

/-- `CS.RESYNC(s, tick)` (R218): at most one `CS.INIT`, whose result is not checked; with the precondition of that operation
(log entry 35). -/
def csResync (op : TimeOp) (v : RdCtx) : Except Fault (Run Micros) :=
  let v := v.raise (.clockDesync v.sid)
  csInit op { v with st := { v.st with syFirst := true } }

/-- The sanity check of R211: the jump from the last accepted result exceeds the tolerance. -/
def jumpTooBig (tol : Nat) (res last : Micros) : Bool :=
  decide (tol < (((res.toNat : Int) - last.toNat).natAbs))

/-! ### The conversions -/

/-- The end of `CS.TOHOST` (R211): the accepted result. -/
def csAccept (us : Micros) (v : RdCtx) : Except Fault (Run Micros) :=
  .ok (.done us { v with st := { v.st with syLastRes := us } })

/-- `CS.TOHOST` (R211) once a reference exists: first call or later call, then the accepted result. -/
def csConvert (op : TimeOp) (v : RdCtx) : Except Fault (Run Micros) :=
  if v.st.syFirst then do
    let r ← csInit op v
    r.bind csAccept
  else do
    let (us, v) ← csAdvance v op.tick
    if jumpTooBig v.cfg.sanityTolUs us v.st.syLastRes then do
      let r ← csResync op v
      r.bind csAccept
    else csAccept us v

/-- `CS.HOSTONLY` (R219) once a reference exists: the host time elapsed since. -/
def csElapsed (op : TimeOp) (v : RdCtx) : Except Fault (Run Micros) :=
  match hostClock v.io with
  | none => .ok (.wait ⟨op, .clock⟩ v)
  | some (now, io) => do
    let us ← to64 ((now.toNat : Int) - v.ref.host.toNat)
    .ok (.done us { v with io := io })

/-- What a conversion does once `CS.ESTABLISH` has returned; on its own `CS.ESTABLISH` has no result. -/
def csEstablished (op : TimeOp) (v : RdCtx) : Except Fault (Run Micros) :=
  match op with
  | .tohost _ => csConvert op v
  | .hostonly => csElapsed op v
  | .establish _ => .ok (.done 0 v)
  | .init _ => csInit op v

/-- A conversion from its start: `CS.TOHOST` (R211; a zero tick met before any reference establishes nothing),
`CS.HOSTONLY` (R219), `CS.ESTABLISH` (R212), `CS.INIT` (R213). -/
def csBegin (op : TimeOp) (v : RdCtx) : Except Fault (Run Micros) :=
  match op with
  | .tohost tick =>
    if v.ref.valid then csConvert op v
    else if tick = 0 then .ok (.done 0 v)
    else (csEstablish op v).bind fun _ v => csEstablished op v
  | .hostonly =>
    if v.ref.valid then csElapsed op v else (csEstablish op v).bind fun _ v => csEstablished op v
  | .establish _ => (csEstablish op v).bind fun _ v => csEstablished op v
  | .init _ => csInit op v

/-- A conversion from the host clock read it waited at. `SY_FIRST` stays as it stands: what a `PR.STOP`, `PR.ARM`, `CT.CONNECT`
or `CT.DISCONNECT` has set meanwhile stays set (log entries 37, DEDUCED, and 41, DESIGN CHOICE). -/
def csRead (op : TimeOp) (v : RdCtx) : Except Fault (Run Micros) :=
  match op with
  | .tohost _ => do
    let r ← csInitRead op v
    r.bind csAccept
  | .hostonly => csElapsed op v
  | .establish _ => .ok (.done 0 v)
  | .init _ => csInitRead op v

/-- A conversion from where it waited (R18): the lock, the read inside it, or a later read. -/
def csResume (w : TimeWait) (v : RdCtx) : Except Fault (Run Micros) :=
  match w.stage with
  | .lock => (csEstablish w.op v).bind fun _ v => csEstablished w.op v
  | .reference => (csReference w.op v).bind fun _ v => csEstablished w.op v
  | .clock => csRead w.op v

/-! ### The meanings -/

/-- What a conversion returns: the time, but for `CS.ESTABLISH`, which returns nothing. -/
def TimeOp.value (op : TimeOp) (us : Micros) : Ret :=
  match op with
  | .tohost _ => .time us
  | .hostonly => .time us
  | .establish _ => .none
  | .init _ => .time us

/-- The end of a conversion for an agent at `HOSTOP`, whose result is put out (R10), or of one started on its own; where it
waits it stays in flight. -/
def csSettle (op : TimeOp) (a : Option Agent) (r : Run Micros) : Ret × RdCtx :=
  match r with
  | .wait w v => (.waiting, v.park w (.asked a))
  | .done us v =>
    match a with
    | none => (op.value us, v)
    | some a => (op.value us, v.emit (.result a (op.value us)))

/-- A conversion of stream `sid` as an operation: its reader agent executes one operation at a time (R281). -/
def State.onClock (s : State) (i : Instr) (sid : Nat) (op : TimeOp) (a : Option Agent)
    (f : RdCtx → Except Fault (Run Micros)) : Outcome :=
  s.onReader i sid Stream.inJob fun v => do
    let r ← f v
    .ok (csSettle op a r)

/-- `CS.TOHOST` at `HOSTOP` (R211): agent `RD[s]` only, no stream lock (R287). -/
def execCsTohost (a : Agent) (sid : Nat) (tick : Tick) (s : State) : Outcome :=
  if a ≠ .rd sid then .refused .wrongAgent
  else
    let op : TimeOp := .tohost (counterTick s.cfg tick)
    s.onClock (.csTohost a sid tick) sid op (some a) (csBegin op)

/-- `CS.HOSTONLY` at `HOSTOP` (R219): agent `RD[s]` only. -/
def execCsHostonly (a : Agent) (sid : Nat) (s : State) : Outcome :=
  if a ≠ .rd sid then .refused .wrongAgent
  else s.onClock (.csHostonly a sid) sid .hostonly (some a) (csBegin .hostonly)

/-- `CS.ESTABLISH` (R212), executed by the reader agent of the stream that met the tick. -/
def execCsEstablish (t : StreamTick) (s : State) : Outcome :=
  let op : TimeOp := .establish (counterTick s.cfg t.tick)
  s.onClock (.csEstablish t) t.sid op none (csBegin op)

/-- `CS.INIT` (R213). Its precondition `REF_VALID = 1` is not tested (log entry 35, DESIGN CHOICE). -/
def execCsInit (sid : Nat) (tick : Tick) (s : State) : Outcome :=
  let op : TimeOp := .init (counterTick s.cfg tick)
  s.onClock (.csInit sid tick) sid op none (csBegin op)

/-- `CS.ADVANCE` (R216). Its precondition `SY_FIRST = 0` is not tested (log entry 35, DESIGN CHOICE). -/
def execCsAdvance (sid : Nat) (tick : Tick) (s : State) : Outcome :=
  s.onStream sid fun v => do
    let (us, v) ← csAdvance v (counterTick v.cfg tick)
    .ok (.time us, v)

/-- `CS.RESYNC` (R218). The precondition of its `CS.INIT` is not tested (log entry 35, DESIGN CHOICE). -/
def execCsResync (sid : Nat) (tick : Tick) (s : State) : Outcome :=
  let op : TimeOp := .init (counterTick s.cfg tick)
  s.onClock (.csResync sid tick) sid op none (csResync op)

end Sys2Proof.Machine
end

