-- ==== Sys2Proof/Machine/PacketReassembler.lean ====
section
/-! DEFINITION. The Packet Reassembler (`42_packet_reassembler.md`): the host operations `PR.CONFIGURE`, `PR.ARM`,
`PR.STOP`, the byte parser, the per-packet and per-frame actions, and the packet classes. There is no reorder buffer
(R165). -/

namespace Sys2Proof.Machine

/-! ### Frame actions -/

/-- `PR.PAD(s, k)` (R185): `k` filler samples, all or nothing. -/
def prPad (v : RdCtx) (k : Nat) : RdCtx :=
  if v.st.drop || decide (k = 0) then v
  else appendOut v (List.replicate k (fillerSample v.cfg (sampleBytes v.cfg v.st.conf))).flatten

/-- `PR.FRAMERESET(s)` (R181). -/
def prFrameReset (v : RdCtx) : RdCtx := { v with st := frameReset v.st }

/-- `PR.SOF(s)` (R180): a frame in progress is discarded without an event (R188). -/
def prSof (v : RdCtx) (h : Header) : RdCtx :=
  let v := prFrameReset v
  if v.cap.sofTsPad then prPad { v with st := { v.st with trailPad := trailPadOf h.ts } } (leadPad h.ts).toNat else v

/-- `PR.PUBLISH(s)` (R187): commit the frame, report it, take a fresh write slot (R296). -/
def prPublish (v : RdCtx) : Except Fault RdCtx := do
  let st := v.st
  let data ← readCells .out st.out 0 st.outLen.toNat
  let frame : Frame :=
    { id := st.frameId, ts := st.pktTime, len := st.outLen, data := data, corrupt := st.corrupt, loss := st.lossMark,
      lossFirst := st.lossFirst, lossLast := st.lossLast }
  let v := ((v.emit (.commit v.sid frame)).emit (.fps v.sid st.frameId st.pktTime)).emit (.acquire v.sid)
  .ok { v with st := { v.st with out := [] } }

/-- `PR.EOF(s)` (R184). -/
def prEof (v : RdCtx) : Except Fault RdCtx := do
  let v := prPad v v.st.trailPad.toNat
  let v := { v with st := eofChecks v.cfg v.st }
  let v := if v.st.corrupt then v.raise (.frameCorrupted v.sid) else v
  let v ← prPublish { v with st := { v.st with frameId := v.st.frameId + 1 } }
  .ok (prFrameReset v)

/-- `PR.PIECE(s, D, off, k)` (R183): a piece of payload to the active codec. No codec uses the offset. -/
def prPiece (v : RdCtx) (bytes : List Byte) : Except Fault RdCtx :=
  if v.st.drop then .ok v
  else
    match v.st.conf.codec with
    | .pass => .ok (appendOut v bytes)
    | .unpack11 => bdFeed v 11 v.cfg.elemIn11 bytes
    | .unpack12 => bdFeed v 12 v.cfg.elemIn12 bytes
    | .xform => .error .codecUnspecified

/-! ### Packet actions -/

/-- `PR.LOSSCHK(s)` (R178): the sequence check; `LAST_SEQ` follows the packet whether or not it signalled. -/
def prLosschk (v : RdCtx) (h : Header) : Bool × RdCtx :=
  let expected := nextSeq v.cfg v.st.lastSeq
  let lossNow := lossOf expected h.seq
  let v := if lossNow then v.raise (.packetLoss v.sid expected h.seq) else v
  (lossNow, { v with st := { v.st with lastSeq := h.seq } })

/-- The conversion `PR.TIME` starts (R182): of the header's tick, or of the host clock alone. -/
def timeOp (cfg : Cfg) (st : Stream) (h : Header) : TimeOp :=
  match st.conf.tsMode with
  | .device => .tohost (counterTick cfg h.ts)
  | .hostOnly => .hostonly

/-- The end of `PR.TIME` (R182): the packet's time, mirrored at `DIAG`. -/
def prTimed (v : RdCtx) (h : Header) (us : Micros) : RdCtx :=
  let v := { v with st := { v.st with pktTime := us } }
  v.emit (.diagTime v.sid h.ts us)

/-- `PR.TIME(s)` (R182). -/
def prTime (v : RdCtx) (h : Header) : Except Fault (Run Unit) := do
  let r ← csBegin (timeOp v.cfg v.st h) v
  r.bind fun us v => .ok (.done () (prTimed v h us))

/-- The packet is class `PKT.SOF` (R94). -/
def isSof (st : Stream) (h : Header) : Bool := decide (h.type = st.conf.typeSof)

/-- The packet is class `PKT.EOF` (R94). -/
def isEof (st : Stream) (h : Header) : Bool := decide (h.type = st.conf.typeEof)

/-- `PR.PKTSTART(s)` with the header fields read (R177): loss check, start-of-frame, loss flags, time, in this order. -/
def packetStart (v : RdCtx) (h : Header) : Except Fault (Run Unit) :=
  let sof := isSof v.st h
  let v := v.emit (.diagPacket v.sid h.type h.seq h.size h.ts)
  let (lossNow, v) := prLosschk v h
  let v := if sof then prSof v h else v
  let v := { v with st := lossFlags v.st sof lossNow }
  if sof && v.cap.sofTsPad then .ok (.done () v) else prTime v h

/-- `PR.PKTSTART(s)` (R177). -/
def prPktstart (v : RdCtx) : Except Fault (Run Unit) := do
  let h ← readHeader v.st.hdr
  packetStart v h

/-- `PR.PKTEND(s)` with the header fields read (R176). -/
def packetEnd (v : RdCtx) (h : Header) : Except Fault RdCtx := do
  let v ← if isEof v.st h then prEof v else .ok v
  .ok { v with st := parserReset v.st .seekingMagic }

/-- `PR.PKTEND(s)` (R176). -/
def prPktend (v : RdCtx) : Except Fault RdCtx := do
  let h ← readHeader v.st.hdr
  packetEnd v h

/-! ### The parser

Each per-state operation takes the bytes of the chunk from its position on and answers how many of them it consumed. -/

/-- `PR.DISCARD` (R171). -/
def prDiscard (v : RdCtx) (rest : List Byte) : Nat × RdCtx := (rest.length, v)

/-- `PR.IGNORE` (R172). -/
def prIgnore (v : RdCtx) (rest : List Byte) : Nat × RdCtx :=
  let k := min rest.length v.st.ignLeft.toNat
  let left := v.st.ignLeft.toNat - k
  (k, { v with st := { v.st with ignLeft := BitVec.ofNat 32 left,
                                 pstate := if left = 0 then .seekingMagic else v.st.pstate } })

/-- `PR.SEEK` (R173) on the next byte. -/
def prSeek (v : RdCtx) (b : Byte) : Nat × RdCtx :=
  if v.st.magicHalf && b == magicHi v.cap then
    (1, { v with st := { v.st with hdr := writeCells v.st.hdr 0 [magicLo v.cap, magicHi v.cap], hdrCnt := 2,
                                   magicHalf := false, pstate := .readingHeader } })
  else (1, { v with st := { v.st with magicHalf := b == magicLo v.cap } })

/-- The end of `PR.HDR` (R174), once `PR.PKTSTART` has returned. -/
def headerTail (v : RdCtx) (h : Header) : Except Fault RdCtx :=
  if h.size = 0 then packetEnd v h
  else .ok { v with st := { v.st with dataLeft := h.size, dataOff := 0, pstate := .readingData } }

/-- `PR.HDR` (R174) from the twelfth header byte on. -/
def headerComplete (v : RdCtx) : Except Fault (Run Unit) := do
  let h ← readHeader v.st.hdr
  let r ← packetStart v h
  r.bind fun _ v => do
    let v ← headerTail v h
    .ok (.done () v)

/-- `PR.HDR` (R174): how many bytes it consumes, and how far it comes with them. -/
def prHdr (v : RdCtx) (rest : List Byte) : Except Fault (Nat × Run Unit) := do
  let c := v.st.hdrCnt.toNat
  let k := min rest.length (Config.hdrSize - c)
  let v := { v with st := { v.st with hdr := writeCells v.st.hdr c (rest.take k), hdrCnt := BitVec.ofNat 4 (c + k) } }
  if c + k = Config.hdrSize then do
    let r ← headerComplete v
    .ok (k, r)
  else .ok (k, .done () v)

/-- `PR.DATA` (R175). -/
def prData (v : RdCtx) (rest : List Byte) : Except Fault (Nat × RdCtx) := do
  let k := min rest.length v.st.dataLeft.toNat
  let v ← prPiece v (rest.take k)
  let left := v.st.dataLeft.toNat - k
  let v := { v with st := { v.st with dataOff := BitVec.ofNat 16 (v.st.dataOff.toNat + k),
                                      dataLeft := BitVec.ofNat 16 left } }
  if left = 0 then do
    let v ← prPktend v
    .ok (k, v)
  else .ok (k, v)

/-- A part of an operation that runs to its end at once, as what it consumed and how far it came. -/
def throughout (p : Nat × RdCtx) : Nat × Run Unit := (p.1, .done () p.2)

/-- One round of `PR.CHUNK` (R170): the operation of the parser's state on the rest of the chunk. -/
def chunkRound (v : RdCtx) (rest : List Byte) : Except Fault (Nat × Run Unit) :=
  match v.st.pstate with
  | .awaitingConfiguration => .ok (throughout (prDiscard v rest))
  | .ignoringGarbage => .ok (throughout (prIgnore v rest))
  | .seekingMagic =>
    match rest with
    | [] => .ok (0, .done () v)
    | b :: _ => .ok (throughout (prSeek v b))
  | .readingHeader => prHdr v rest
  | .readingData => do
    let p ← prData v rest
    .ok (throughout p)

/-- The loop of `PR.CHUNK` (R170), at most as many rounds as bytes; a round that consumes nothing would never end. Where a
packet's time waits, the rest of the chunk waits with it. -/
def chunkLoop : Nat → RdCtx → List Byte → Except Fault RdCtx
  | _, v, [] => .ok v
  | 0, _, _ :: _ => .error .parserStuck
  | fuel + 1, v, b :: bs => do
    let (k, r) ← chunkRound v (b :: bs)
    if k = 0 then .error .parserStuck
    else
      match r with
      | .done _ v => chunkLoop fuel v ((b :: bs).drop k)
      | .wait w v => .ok (v.park w (.parser (.chunk ((b :: bs).drop k))))

/-- The end of `PR.CHUNK` (R170, R75): its lock is freed, unless it waits inside the chunk. -/
def chunkEnd (v : RdCtx) : Ret × RdCtx := if v.st.inJob then (.waiting, v) else (.none, v.unlock)

/-- `PR.CHUNK(s, B)` (R170): the reader agent holds `STREAM_LOCK[s]` throughout (R75). -/
def prChunk (v : RdCtx) (bytes : List Byte) : Except Fault (Ret × RdCtx) := do
  let v ← chunkLoop bytes.length (v.lock (.rd v.sid)) bytes
  .ok (chunkEnd v)

/-- `PR.CHUNK` as a port transaction: it waits for its agent and for `STREAM_LOCK[s]` (R75, R281). What is held is the
chunk itself, whatever its bytes were taken for (log entry 32). -/
def chunkAt (sid : Nat) (bytes : List Byte) (s : State) : Outcome :=
  s.onReader (.prChunk sid bytes) sid (fun st => st.locked || st.inJob) fun v => prChunk v bytes

/-! ### Going on after a wait -/

/-- The operation that asked for a packet's time, from the time on (R182, R177, R174, R170). -/
def packetTimed (u : PacketUser) (us : Micros) (v : RdCtx) : Except Fault (Ret × RdCtx) := do
  let h ← readHeader v.st.hdr
  let v := prTimed v h us
  match u with
  | .packet => .ok (.none, v)
  | .header pos => do
    let v ← headerTail v h
    .ok (.pos pos, v)
  | .chunk rest => do
    let v ← headerTail v h
    let v ← chunkLoop rest.length v rest
    .ok (chunkEnd v)

/-- An operation of `RD[s]` in flight, taken on from where it waits. -/
def jobResume (v : RdCtx) (j : Job) : Except Fault (Ret × RdCtx) := do
  let r ← csResume j.wait { v with st := { v.st with job := none } }
  match j.user, r with
  | .asked a, r => .ok (csSettle j.wait.op a r)
  | .parser u, .wait w v => .ok (.waiting, v.park w (.parser u))
  | .parser u, .done us v => packetTimed u us v

/-- Take the operation of `RD[sid]` in flight on, where there is one. -/
def State.resumeReader (s : State) (sid : Nat) : Outcome :=
  match s.streams[sid]? with
  | none => .next s
  | some st =>
    match st.job with
    | none => .next s
    | some j => s.onStream sid fun v => jobResume v j

/-- A part of the parser started on its own: what it returns, or in flight with what is left of it. -/
def parserSettle (u : PacketUser) (r : Ret) : Run Unit → Ret × RdCtx
  | .done _ v => (r, v)
  | .wait w v => (.waiting, v.park w (.parser u))

/-! ### Host operations -/

/-- `PR.CONFIGURE(s, c)` (R162). -/
def prConfigure (v : RdCtx) (c : StreamConfig) : Ret × RdCtx :=
  if decide (v.st.pstate = .awaitingConfiguration) && configLegal v.cfg c then
    (.ok, { v with st := { v.st with conf := c, cfgValid := true } })
  else (.refused, v)

/-- The condition of `PR.ARM` (R163). -/
def armLegal (capValid : Bool) (st : Stream) : Bool :=
  decide (st.pstate = .awaitingConfiguration) && capValid && st.cfgValid &&
    (decide (st.conf.codec = .pass) || !st.conf.lutEn || st.calValid)

/-- `PR.ARM(s)` (R163); the sink hands out the first write slot (R296). -/
def prArm (capValid : Bool) (v : RdCtx) : Ret × RdCtx :=
  if armLegal capValid v.st then
    let p : PState := if v.st.conf.ignoreBytes = 0 then .seekingMagic else .ignoringGarbage
    let st := frameReset (parserReset v.st p)
    let v := { v with st := { st with ignLeft := st.conf.ignoreBytes, lastSeq := 0, frameId := 0, pktTime := 0,
                                      syFirst := true } }
    (.ok, v.emit (.acquire v.sid))
  else (.refused, v)

/-- `PR.STOP(s)` (R164). -/
def prStop (v : RdCtx) : RdCtx :=
  let st := frameReset (parserReset v.st .awaitingConfiguration)
  { v with st := { st with ignLeft := 0, syFirst := true } }

/-! ### The meanings -/

/-- `PR.CONFIGURE` (R162): agent `HOST`. -/
def execPrConfigure (a : Agent) (sid : Nat) (c : StreamConfig) (s : State) : Outcome :=
  if codecOutOfDomain s.cfg c.codec then .refused .illegalConfiguration
  else
    s.onHost (.prConfigure a sid c) (decide (a = .host)) a sid fun v => .ok (prConfigure v c)

/-- `PR.ARM` (R163): agent `HOST`. -/
def execPrArm (a : Agent) (sid : Nat) (s : State) : Outcome :=
  s.onHost (.prArm a sid) (decide (a = .host)) a sid fun v => .ok (prArm s.capValid v)

/-- `PR.STOP` (R164): agent `HOST`, always legal. -/
def execPrStop (a : Agent) (sid : Nat) (s : State) : Outcome :=
  s.onHost (.prStop a sid) (decide (a = .host)) a sid fun v => .ok (.ok, prStop v)

/-- `PR.CHUNK` (R170): a transaction of `STREAM_IN[s]`. -/
def execPrChunk (sid : Nat) (bytes : List Byte) (s : State) : Outcome := chunkAt sid bytes s

/-- The header of a packet arriving at `STREAM_IN[s]` as one chunk of 12 bytes (R91, R111), in the stream's current
parser state; `type` is what selects its class once the header completes (R94, R177). -/
def headerAt (sid : Nat) (type : Stream → Half) (seq size : Half) (ts : Tick) (s : State) : Outcome :=
  match s.streams[sid]? with
  | none => .refused (.illFormed .noSuchStream)
  | some st => chunkAt sid (headerBytes s.cap.magicD2H (type st) seq size ts) s

/-- `PKT.SOF` (R177, R180): a header whose type is `TYPE_SOF[s]`. -/
def execPktSof (sid : Nat) (seq size : Half) (ts : Tick) (s : State) : Outcome :=
  headerAt sid (fun st => st.conf.typeSof) seq size ts s

/-- `PKT.EOF` (R177, R184): a header whose type is `TYPE_EOF[s]`. -/
def execPktEof (sid : Nat) (seq size : Half) (ts : Tick) (s : State) : Outcome :=
  headerAt sid (fun st => st.conf.typeEof) seq size ts s

/-- `PKT.DATA` (R177, R183): a header of any other type. -/
def execPktData (sid : Nat) (type seq size : Half) (ts : Tick) (s : State) : Outcome :=
  headerAt sid (fun _ => type) seq size ts s

/-- A per-state operation started on its own, on the rest of a chunk from a position on. That `PSTATE` is the operation's
state (R171 to R175) is not tested (log entry 35, DESIGN CHOICE). -/
def fromPos (sid : Nat) (bytes : List Byte) (pos : Nat) (s : State)
    (f : RdCtx → List Byte → Except Fault (Nat × RdCtx)) : Outcome :=
  if bytes.length ≤ pos then .refused (.illFormed .positionPastEnd)
  else
    s.onStream sid fun v => do
      let (k, v) ← f v (bytes.drop pos)
      .ok (.pos (pos + k), v)

/-- `PR.DISCARD` (R171). -/
def execPrDiscard (sid : Nat) (bytes : List Byte) (pos : Nat) (s : State) : Outcome :=
  fromPos sid bytes pos s fun v rest => .ok (prDiscard v rest)

/-- `PR.IGNORE` (R172). -/
def execPrIgnore (sid : Nat) (bytes : List Byte) (pos : Nat) (s : State) : Outcome :=
  fromPos sid bytes pos s fun v rest => .ok (prIgnore v rest)

/-- `PR.SEEK` (R173). -/
def execPrSeek (sid : Nat) (bytes : List Byte) (pos : Nat) (s : State) : Outcome :=
  fromPos sid bytes pos s fun v rest => .ok (prSeek v (rest.headD 0))

/-- `PR.HDR` (R174). `PSTATE` is not tested (log entry 35, DESIGN CHOICE). -/
def execPrHdr (sid : Nat) (bytes : List Byte) (pos : Nat) (s : State) : Outcome :=
  if bytes.length ≤ pos then .refused (.illFormed .positionPastEnd)
  else
    s.onReader (.prHdr sid bytes pos) sid Stream.inJob fun v => do
      let (k, r) ← prHdr v (bytes.drop pos)
      .ok (parserSettle (.header (pos + k)) (.pos (pos + k)) r)

/-- `PR.DATA` (R175). Neither `PSTATE` nor `DATA_LEFT >= 1` is tested (log entry 35, DESIGN CHOICE). -/
def execPrData (sid : Nat) (bytes : List Byte) (pos : Nat) (s : State) : Outcome :=
  fromPos sid bytes pos s prData

/-- `PR.PKTEND` (R176). -/
def execPrPktend (sid : Nat) (s : State) : Outcome :=
  s.onStream sid fun v => do
    let v ← prPktend v
    .ok (.none, v)

/-- `PR.PKTSTART` (R177). -/
def execPrPktstart (sid : Nat) (s : State) : Outcome :=
  s.onReader (.prPktstart sid) sid Stream.inJob fun v => do
    let r ← prPktstart v
    .ok (parserSettle .packet .none r)

/-- `PR.LOSSCHK` (R178). -/
def execPrLosschk (sid : Nat) (s : State) : Outcome :=
  s.onStream sid fun v => do
    let h ← readHeader v.st.hdr
    let r := prLosschk v h
    .ok (.flag r.1, r.2)

/-- `PR.SOF` (R180). It reads a header field only where `SOF_TS_PAD = 1`; otherwise it is `PR.FRAMERESET`, whatever `HDR`
holds. -/
def execPrSof (sid : Nat) (s : State) : Outcome :=
  s.onStream sid fun v =>
    if v.cap.sofTsPad then do
      let h ← readHeader v.st.hdr
      .ok (.none, prSof v h)
    else .ok (.none, prFrameReset v)

/-- `PR.FRAMERESET` (R181). -/
def execPrFramereset (sid : Nat) (s : State) : Outcome :=
  s.onStream sid fun v => .ok (.none, prFrameReset v)

/-- `PR.TIME` (R182). -/
def execPrTime (sid : Nat) (s : State) : Outcome :=
  s.onReader (.prTime sid) sid Stream.inJob fun v => do
    let h ← readHeader v.st.hdr
    let r ← prTime v h
    .ok (parserSettle .packet .none r)

/-- `PR.PIECE` (R183). That the piece is not empty is not tested here (log entries 28 and 35, DESIGN CHOICE). -/
def execPrPiece (sid : Nat) (bytes : List Byte) (_off : Half) (s : State) : Outcome :=
  s.onStream sid fun v => do
    let v ← prPiece v bytes
    .ok (.none, v)

/-- `PR.EOF` (R184). -/
def execPrEof (sid : Nat) (s : State) : Outcome :=
  s.onStream sid fun v => do
    let v ← prEof v
    .ok (.none, v)

/-- `PR.PAD` (R185). -/
def execPrPad (sid : Nat) (k : Half) (s : State) : Outcome :=
  s.onStream sid fun v => .ok (.none, prPad v k.toNat)

/-- `PR.OVERFLOW` (R186). -/
def execPrOverflow (sid : Nat) (s : State) : Outcome :=
  s.onStream sid fun v => .ok (.none, prOverflow v)

/-- `PR.PUBLISH` (R187). -/
def execPrPublish (sid : Nat) (s : State) : Outcome :=
  s.onStream sid fun v => do
    let v ← prPublish v
    .ok (.none, v)

end Sys2Proof.Machine
end

