-- ==== Sys2Proof/Machine/Reset.lean ====
section
/-! DEFINITION. `HW.RESET` (rule R310). -/

namespace Sys2Proof.Machine

/-- `HW.RESET` (R310): every operation in progress is abandoned, every lock is free, every register is at its reset value
(R311). What R310 leaves unspecified takes the value State.reset names (log entry 22). The configuration and the
environment (its pending answers, its clock, what it does next, what it has been given, the choices made) are not the
block's to reset. -/
def execHwReset (s : State) : Outcome :=
  .next { State.reset with
    cfg := s.cfg
    streams := List.replicate s.streams.length Stream.reset
    io := s.io
    stimuli := s.stimuli
    choices := s.choices }

end Sys2Proof.Machine
end

