-- ==== Sys2Proof/Machine/Dispatch.lean ====
section
/-! DEFINITION. The meaning of each operation: one arm per constructor. -/

namespace Sys2Proof.Machine

/-- The meaning of an operation of R109. -/
def exec (i : Instr) (s : State) : Host.Outcome State Fault Refusal :=
  match i with
  | .ctConnect a v table => Sys2Proof.Machine.execCtConnect a v table s
  | .ctDisconnect a => Sys2Proof.Machine.execCtDisconnect a s
  | .ctExec a op payload => Sys2Proof.Machine.execCtExec a op payload s
  | .prConfigure a sid c => Sys2Proof.Machine.execPrConfigure a sid c s
  | .prArm a sid => Sys2Proof.Machine.execPrArm a sid s
  | .prStop a sid => Sys2Proof.Machine.execPrStop a sid s
  | .bdCalibrate a sid cal mn mx => Sys2Proof.Machine.execBdCalibrate a sid cal mn mx s
  | .bdReadtable a sid which idx => Sys2Proof.Machine.execBdReadtable a sid which idx s
  | .bdUnpack a sid input => Sys2Proof.Machine.execBdUnpack a sid input s
  | .csTohost a sid tick => Sys2Proof.Machine.execCsTohost a sid tick s
  | .csHostonly a sid => Sys2Proof.Machine.execCsHostonly a sid s
  | .prChunk sid bytes => Sys2Proof.Machine.execPrChunk sid bytes s
  | .hwReset => Sys2Proof.Machine.execHwReset s
  | .pktSof sid seq size ts => Sys2Proof.Machine.execPktSof sid seq size ts s
  | .pktEof sid seq size ts => Sys2Proof.Machine.execPktEof sid seq size ts s
  | .pktData sid type seq size ts => Sys2Proof.Machine.execPktData sid type seq size ts s
  | .ctFrame op id payload => Sys2Proof.Machine.execCtFrame op id payload s
  | .rspAck size op id data => Sys2Proof.Machine.execRspAck size op id data s
  | .rspNackCrc size op id data => Sys2Proof.Machine.execRspNackCrc size op id data s
  | .rspNackBadParams size op id data => Sys2Proof.Machine.execRspNackBadParams size op id data s
  | .rspNackFileNotFound size op id data => Sys2Proof.Machine.execRspNackFileNotFound size op id data s
  | .rspNackNotReady size op id data => Sys2Proof.Machine.execRspNackNotReady size op id data s
  | .rspNackOverflow size op id data => Sys2Proof.Machine.execRspNackOverflow size op id data s
  | .rspNackFsLocked size op id data => Sys2Proof.Machine.execRspNackFsLocked size op id data s
  | .rspNackOther size op id status data => Sys2Proof.Machine.execRspNackOther size op id status data s
  | .ctSendr frame => Sys2Proof.Machine.execCtSendr frame s
  | .ctRecvr => Sys2Proof.Machine.execCtRecvr s
  | .ctAttempt => Sys2Proof.Machine.execCtAttempt s
  | .ctScan chunk => Sys2Proof.Machine.execCtScan chunk s
  | .ctMatch hdr => Sys2Proof.Machine.execCtMatch hdr s
  | .ctGather chunk hdr => Sys2Proof.Machine.execCtGather chunk hdr s
  | .ctStatus body => Sys2Proof.Machine.execCtStatus body s
  | .prDiscard sid bytes pos => Sys2Proof.Machine.execPrDiscard sid bytes pos s
  | .prIgnore sid bytes pos => Sys2Proof.Machine.execPrIgnore sid bytes pos s
  | .prSeek sid bytes pos => Sys2Proof.Machine.execPrSeek sid bytes pos s
  | .prHdr sid bytes pos => Sys2Proof.Machine.execPrHdr sid bytes pos s
  | .prData sid bytes pos => Sys2Proof.Machine.execPrData sid bytes pos s
  | .prPktend sid => Sys2Proof.Machine.execPrPktend sid s
  | .prPktstart sid => Sys2Proof.Machine.execPrPktstart sid s
  | .prLosschk sid => Sys2Proof.Machine.execPrLosschk sid s
  | .prSof sid => Sys2Proof.Machine.execPrSof sid s
  | .prFramereset sid => Sys2Proof.Machine.execPrFramereset sid s
  | .prTime sid => Sys2Proof.Machine.execPrTime sid s
  | .prPiece sid bytes off => Sys2Proof.Machine.execPrPiece sid bytes off s
  | .prEof sid => Sys2Proof.Machine.execPrEof sid s
  | .prPad sid k => Sys2Proof.Machine.execPrPad sid k s
  | .prOverflow sid => Sys2Proof.Machine.execPrOverflow sid s
  | .prPublish sid => Sys2Proof.Machine.execPrPublish sid s
  | .csEstablish t => Sys2Proof.Machine.execCsEstablish t s
  | .csInit sid tick => Sys2Proof.Machine.execCsInit sid tick s
  | .csAdvance sid tick => Sys2Proof.Machine.execCsAdvance sid tick s
  | .csResync sid tick => Sys2Proof.Machine.execCsResync sid tick s
  | .bdFeed sid bytes => Sys2Proof.Machine.execBdFeed sid bytes s
  | .bdElement sid elem mode => Sys2Proof.Machine.execBdElement sid elem mode s
  | .bdMap sid code => Sys2Proof.Machine.execBdMap sid code s

end Sys2Proof.Machine
end

