-- ==== Sys2Proof/Machine/Fetch.lean ====
section
/-! DEFINITION. What the next step of the block is: whose turn it is among the operations that wait and the next stimulus,
what a transaction decodes to, and whether its agent is free (rules R18, R72, R281, R283, R310; log entries 1, 10, 11, 12,
31, 32). -/

namespace Sys2Proof.Machine

/-! ### Agents -/

/-- The agent that executes an operation (R281, R287, R298): a reader agent for all that a stream's bytes start; none for a
reset, a reply, and what the issuer in its exchange executes. -/
def agentOf : Instr → Option Agent
  | .ctConnect a _ _ => some a
  | .ctDisconnect a => some a
  | .ctExec a _ _ => some a
  | .prConfigure a _ _ => some a
  | .prArm a _ => some a
  | .prStop a _ => some a
  | .bdCalibrate a _ _ _ _ => some a
  | .bdReadtable a _ _ _ => some a
  | .bdUnpack a _ _ => some a
  | .csTohost a _ _ => some a
  | .csHostonly a _ => some a
  | .prChunk sid _ => some (.rd sid)
  | .hwReset => none
  | .pktSof sid _ _ _ => some (.rd sid)
  | .pktEof sid _ _ _ => some (.rd sid)
  | .pktData sid _ _ _ _ => some (.rd sid)
  | .ctFrame _ _ _ => none
  | .rspAck _ _ _ _ => none
  | .rspNackCrc _ _ _ _ => none
  | .rspNackBadParams _ _ _ _ => none
  | .rspNackFileNotFound _ _ _ _ => none
  | .rspNackNotReady _ _ _ _ => none
  | .rspNackOverflow _ _ _ _ => none
  | .rspNackFsLocked _ _ _ _ => none
  | .rspNackOther _ _ _ _ _ => none
  | .ctSendr _ => none
  | .ctRecvr => none
  | .ctAttempt => none
  | .ctScan _ => none
  | .ctMatch _ => none
  | .ctGather _ _ => none
  | .ctStatus _ => none
  | .prDiscard sid _ _ => some (.rd sid)
  | .prIgnore sid _ _ => some (.rd sid)
  | .prSeek sid _ _ => some (.rd sid)
  | .prHdr sid _ _ => some (.rd sid)
  | .prData sid _ _ => some (.rd sid)
  | .prPktend sid => some (.rd sid)
  | .prPktstart sid => some (.rd sid)
  | .prLosschk sid => some (.rd sid)
  | .prSof sid => some (.rd sid)
  | .prFramereset sid => some (.rd sid)
  | .prTime sid => some (.rd sid)
  | .prPiece sid _ _ => some (.rd sid)
  | .prEof sid => some (.rd sid)
  | .prPad sid _ => some (.rd sid)
  | .prOverflow sid => some (.rd sid)
  | .prPublish sid => some (.rd sid)
  | .csEstablish t => some (.rd t.sid)
  | .csInit sid _ => some (.rd sid)
  | .csAdvance sid _ => some (.rd sid)
  | .csResync sid _ => some (.rd sid)
  | .bdFeed sid _ => some (.rd sid)
  | .bdElement sid _ _ => some (.rd sid)
  | .bdMap sid _ => some (.rd sid)

/-- The agent executes an operation that waits: the exchange in flight, a `CT.EXEC` at its lock, or a time conversion. -/
def State.acting (s : State) (a : Agent) : Bool :=
  s.exchange.any (fun x => decide (x.owner = a)) || s.admitted.any (fun c => decide (c.agent = a)) ||
    (match a with
      | .rd sid => (s.streams[sid]?).any Stream.inJob
      | .host => false
      | .ci _ => false)

/-- The agent of an operation is not free: it executes an operation that waits, or one of its own is held (R281). -/
def State.busy (s : State) (i : Instr) : Bool :=
  (agentOf i).any fun a => s.acting a || s.held.any fun j => decide (agentOf j = some a)

/-! ### Operations that have not begun -/

/-- `STREAM_LOCK[sid]` is free; a stream that does not exist has nothing to wait for. -/
def State.streamFree (s : State) (sid : Nat) : Bool :=
  match s.streams[sid]? with
  | none => true
  | some st => !st.locked

/-- What an operation needs to begin: its `STREAM_LOCK`, where it takes one (R75). `CT.EXEC` needs no lock to begin (R138). -/
def State.mayBegin (s : State) (i : Instr) : Bool :=
  match i with
  | .prConfigure _ sid _ => s.streamFree sid
  | .prArm _ sid => s.streamFree sid
  | .prStop _ sid => s.streamFree sid
  | .bdCalibrate _ sid _ _ _ => s.streamFree sid
  | .bdReadtable _ sid _ _ => s.streamFree sid
  | .bdUnpack _ sid _ => s.streamFree sid
  | .prChunk sid _ => s.streamFree sid
  | .pktSof sid _ _ _ => s.streamFree sid
  | .pktEof sid _ _ _ => s.streamFree sid
  | .pktData sid _ _ _ _ => s.streamFree sid
  | _ => true

/-- The places in `held` of the operations that can begin: the first of its agent, its agent free, its lock free; `earlier`
are the operations held before, `k` their number. -/
def State.runnableFrom (s : State) (earlier : List Instr) (k : Nat) : List Instr → List Nat
  | [] => []
  | i :: rest =>
    let later := s.runnableFrom (earlier ++ [i]) (k + 1) rest
    if s.mayBegin i && !(agentOf i).any s.acting && !(earlier.any fun j => decide (agentOf j = agentOf i)) then k :: later
    else later

/-- The held operations that can begin, by their places. -/
def State.runnable (s : State) : List Nat := s.runnableFrom [] 0 s.held

/-! ### Turns -/

/-- What a step may do: an agent's part, or the next stimulus. -/
inductive Turn where
  /-- The held operation at a place begins. -/
  | held (k : Nat)
  /-- The admitted command at a place takes `CMD_LOCK`. -/
  | admitted (k : Nat)
  /-- The conversion of a reader agent goes on. -/
  | reader (sid : Nat)
  /-- The exchange in flight goes on. -/
  | exchange
  /-- The next stimulus. -/
  | stimulus
deriving DecidableEq, Repr

/-- A conversion in flight can go on: `CLK_LOCK` is free and granted (R72), or the host clock has an answer. -/
def State.jobReady (s : State) (st : Stream) : Bool :=
  match st.job with
  | none => false
  | some j =>
    match j.wait.stage with
    | .lock => s.clkLock.isNone && s.io.grantLocks
    | .reference => clockReady s.io
    | .clock => clockReady s.io

/-- The reader agents whose conversions can go on. -/
def State.readers (s : State) : List Nat :=
  (List.range s.streams.length).filter fun sid => (s.streams[sid]?).any s.jobReady

/-- The admitted commands that can take `CMD_LOCK` (R72, R76). -/
def State.admissible (s : State) : List Nat :=
  if s.cmdHeld || !s.io.grantLocks then [] else List.range s.admitted.length

/-- All that can come next. -/
def State.turns (s : State) : List Turn :=
  s.runnable.map .held ++ s.admissible.map .admitted ++ s.readers.map .reader ++
    (if s.exchange.any (exchangeReady s.io) then [.exchange] else []) ++
    (if s.stimuli.isEmpty then [] else [.stimulus])

/-- The next thing the environment does is a reset (R283: it wins over everything). -/
def State.resetNext (s : State) : Bool :=
  match s.stimuli with
  | .port .reset :: _ => true
  | _ => false

/-- What comes next, none where nothing can (R149, R301). Among several any may (R18, R72, R283, U5): a free choice (log
entry 11). -/
def State.turn (s : State) : Option Turn :=
  if s.resetNext then some .stimulus
  else
    match s.turns with
    | [] => none
    | [t] => some t
    | t :: u :: ts => (t :: u :: ts)[Config.nextTurn s.choices % (ts.length + 2)]?

/-- The counter of free choices after this one. -/
def State.choicesAfter (s : State) : Nat :=
  if s.resetNext then s.choices
  else
    match s.turns with
    | [] => s.choices
    | [_] => s.choices
    | _ :: _ :: _ => s.choices + 1

/-! ### Transactions -/

/-- The register contents a transaction's encoding is compared with (R93, R94). While `CAP_VALID` or `CFG_VALID` is 0 they
hold what the model names at reset (log entry 36, DESIGN CHOICE); which class a header or a reply is given then changes
nothing, since its bytes are the same. -/
def State.decodeCtx (s : State) (t : Transaction) : DecodeCtx :=
  let c : StreamConfig :=
    match t with
    | .packet sid _ =>
      match s.streams[sid]? with
      | none => StreamConfig.zero
      | some st => st.conf
    | .hostop _ _ _ => StreamConfig.zero
    | .chunk _ _ => StreamConfig.zero
    | .reply _ => StreamConfig.zero
    | .reset => StreamConfig.zero
  { magicH2D := s.cap.magicH2D, magicD2H := s.cap.magicD2H, typeSof := c.typeSof, typeEof := c.typeEof }

/-- What a step does. -/
inductive Choice where
  /-- Nothing (R149, R301). -/
  | idle
  /-- A transaction that is no step of the block. -/
  | refuse (r : Refusal)
  /-- Something the environment does. -/
  | supply (x : Stimulus) (s : State)
  /-- An operation whose agent is not free. -/
  | hold (i : Instr) (s : State)
  /-- An operation that runs. -/
  | run (i : Instr) (s : State)
  /-- A command that takes `CMD_LOCK`. -/
  | grantLock (c : Command) (s : State)
  /-- A conversion that goes on. -/
  | resumeReader (sid : Nat) (s : State)
  /-- The exchange that goes on. -/
  | resumeExchange (s : State)

/-- Start an operation: check its operands; while its agent is not free, hold it as `later`. -/
def State.begin (s : State) (i later : Instr) : Choice :=
  match i.check s.cfg with
  | some e => .refuse (.illFormed e)
  | none => if s.busy i then .hold later s else .run i s

/-- Start a port transaction. `s` is the state without it. A header or a reply that is not of its format is still its bytes:
a chunk for the parser, an answer for a receive (R100, R128, R173); a header held for its reader agent is held as its bytes
(log entry 32). An unknown selector has no step (R108, U12). -/
def State.start (s : State) (t : Transaction) : Choice :=
  match t, decodeInput (s.decodeCtx t) t with
  | .packet sid hw, .ok i => s.begin i (.prChunk sid (packetBytes hw))
  | .packet sid hw, .error _ => s.begin (.prChunk sid (packetBytes hw)) (.prChunk sid (packetBytes hw))
  | .reply _, .ok i => s.begin i i
  | .reply bytes, .error _ => .supply (.recv [.data bytes]) s
  | .hostop _ _ _, .ok i => s.begin i i
  | .hostop _ _ _, .error e => .refuse (.undecodable e)
  | .chunk _ _, .ok i => s.begin i i
  | .chunk _ _, .error e => .refuse (.undecodable e)
  | .reset, .ok i => s.begin i i
  | .reset, .error e => .refuse (.undecodable e)

/-- The next stimulus. -/
def State.nextStimulus (s : State) : Choice :=
  match s.stimuli with
  | [] => .idle
  | .port t :: rest => { s with stimuli := rest }.start t
  | x :: rest => .supply x { s with stimuli := rest }

/-- What a turn does, the choice it took made. -/
def State.take (s : State) (t : Turn) : Choice :=
  match t with
  | .held k =>
    match s.held[k]? with
    | none => .idle
    | some i => .run i { s with held := s.held.eraseIdx k }
  | .admitted k =>
    match s.admitted[k]? with
    | none => .idle
    | some c => .grantLock c { s with admitted := s.admitted.eraseIdx k }
  | .reader sid => .resumeReader sid s
  | .exchange => .resumeExchange s
  | .stimulus => s.nextStimulus

/-- What the next step does. -/
def State.select (s : State) : Choice :=
  match s.turn with
  | none => .idle
  | some t => { s with choices := s.choicesAfter }.take t

/-- What the environment does (R110): new host clock answers replace those not yet taken; raw transport answers queue in
order, and a chunk at `CTRL_RX` takes on an exchange that waits for one; free locks are granted or not. -/
def State.supply (s : State) (x : Stimulus) : Outcome :=
  match x with
  | .clock vs rest => .next { s with io := { s.io with clock := { s.io.clock with queue := vs, rest := rest } } }
  | .send vs rest => .next { s with io := { s.io with sendQ := s.io.sendQ ++ vs, sendRest := rest } }
  | .recv vs => s.receive vs
  | .locks granted => .next { s with io := { s.io with grantLocks := granted } }
  | .port _ => .next s

/-! ### The opcode table's words -/

/-- The registers an encoding is compared with, and for a request the size it must fit, at the reference contents of R93, for
the encoding that needs them (log entry 30). -/
def State.withReference (s : State) (e : Encoded) : State :=
  match e with
  | .input (.packet sid _) =>
    { s with cap := { s.cap with magicD2H := DecodeCtx.ref.magicD2H }
             streams := s.streams.modify sid fun st =>
               { st with conf := { st.conf with typeSof := DecodeCtx.ref.typeSof, typeEof := DecodeCtx.ref.typeEof } } }
  | .input (.reply _) => { s with cap := { s.cap with magicD2H := DecodeCtx.ref.magicD2H } }
  | .input (.hostop _ _ _) => s
  | .input (.chunk _ _) => s
  | .input .reset => s
  | .request _ => { s with cap := { s.cap with magicH2D := DecodeCtx.ref.magicH2D, maxPkt := 512 } }

/-- A state in which no operation waits: what is held, admitted or in flight is dropped, its locks are free. -/
def State.quiet (s : State) : State :=
  { s with held := [], admitted := [], exchange := none, cmdLock := none, clkLock := none
           streams := s.streams.map fun st => { st with lock := none, job := none } }

end Sys2Proof.Machine
end

