-- ==== Sys2Proof/Machine/Step.lean ====
section
/-! DEFINITION. One step of the block, and how a word of the opcode table comes to be its next step. -/

namespace Sys2Proof.Machine

/-- One step: an operation begins or goes on, or the environment does something. A `CFG` outside its domain has no step
(U13). -/
def step (s : State) : Host.Outcome State Fault Refusal :=
  if cfgLegal s.cfg then
    match s.select with
    | .idle => .next s
    | .refuse r => .refused r
    | .supply x s' => s'.supply x
    | .hold i s' => .next (s'.hold i)
    | .run i s' => exec i s'
    | .grantLock c s' => s'.beginExchange c.agent c.op c.payload
    | .resumeReader sid s' => s'.resumeReader sid
    | .resumeExchange s' => s'.resumeExchange
  else .refused .illegalConfiguration

/-- The state whose next step is what a word of spec/opcode_table.json stands for (log entries 1 and 30): no operation waits,
and an input is the next stimulus. The request frame is no input (R10): its operation, `CT.FRAME`, is what is held, with no
stimulus that could come before it. -/
def State.withFetchWord (s : State) (nbits w : Nat) : State :=
  let e := tableEncoding nbits w
  let s := s.quiet.withReference e
  match e with
  | .input t => { s with stimuli := .port t :: s.stimuli }
  | .request _ =>
    match decode DecodeCtx.ref e with
    | .ok i => { s with held := [i], stimuli := [] }
    | .error _ => { s with stimuli := [] }

end Sys2Proof.Machine
end

