-- ==== Sys2Proof/Safety.lean ====
section
/-! DEFINITION. What a sound state is: the invariants of rule R44, and what a reachable state has besides (the stores hold
exactly what their counts say, every lock has a holder that waits inside it, what is held came from a port); which faults
are within the spec's own bounds. -/

namespace Sys2Proof.Machine

/-- A store lists the cells `0 .. n-1` and no others: what R21 makes readable below a count of `n`. -/
abbrev Holds {α : Type} (m : Cells α) (n : Nat) : Prop := m.map Prod.fst = List.range n

/-- A 16-bit header field in the cells of `HDR[s]` (R32). -/
def hdrHalf (m : Memory) (i : Nat) : Option Half :=
  match readCell m i, readCell m (i + 1) with
  | some b0, some b1 => some (le16 b0 b1)
  | _, _ => none

/-- `RD[s]` waits inside a chunk, at the time of the packet whose header has just arrived. -/
def Stream.inChunk (st : Stream) : Bool :=
  match st.job with
  | some ⟨_, .parser (.chunk _)⟩ => true
  | some ⟨_, .parser .packet⟩ => false
  | some ⟨_, .parser (.header _)⟩ => false
  | some ⟨_, .asked _⟩ => false
  | none => false

/-- The parser registers fit the parser state: R44 (b), (c), (k), and R166 for `IgnoringGarbage`. R44 (a) holds by the
type of `PSTATE`. Inside `PR.HDR` the header is whole. -/
abbrev ParserInv (magic : Half) (st : Stream) : Prop :=
  Holds st.hdr st.hdrCnt.toNat ∧
  (st.pstate ≠ .ignoringGarbage → st.ignLeft = 0) ∧
  (st.pstate = .ignoringGarbage → 1 ≤ st.ignLeft.toNat) ∧
  (st.pstate ≠ .seekingMagic → st.magicHalf = false) ∧
  (st.pstate ≠ .readingHeader → st.pstate ≠ .readingData → st.hdrCnt = 0) ∧
  (st.pstate = .readingHeader → hdrHalf st.hdr 0 = some magic ∧
    (st.inChunk = false → 2 ≤ st.hdrCnt.toNat ∧ st.hdrCnt.toNat ≤ 11) ∧ (st.inChunk = true → st.hdrCnt = 12)) ∧
  (st.pstate ≠ .readingData → st.dataLeft = 0 ∧ st.dataOff = 0) ∧
  (st.pstate = .readingData →
    st.hdrCnt = 12 ∧ 1 ≤ st.dataLeft.toNat ∧ st.dataOff.toNat + st.dataLeft.toNat < 65536 ∧
      hdrHalf st.hdr 6 = some (st.dataOff + st.dataLeft) ∧ hdrHalf st.hdr 0 = some magic)

/-- Only whole samples, and so an even number of bytes, are in the frame of an unpack codec: R44 (g). -/
abbrev WholeSamples (cfg : Cfg) (st : Stream) : Prop :=
  st.outLen.toNat % 2 = 0 ∧ st.outLen.toNat % (cfg.sampleBits / 8) = 0

/-- The frame registers: R44 (d), (e), (f), (g), (h), and a stopped stream has no frame (R164). -/
abbrev FrameInv (cfg : Cfg) (st : Stream) : Prop :=
  Holds st.out st.outLen.toNat ∧ Holds st.cont st.contLen.toNat ∧
  st.outLen.toNat ≤ st.conf.outCap.toNat ∧
  (st.conf.codec = .pass → st.contLen = 0) ∧
  (st.conf.codec = .unpack11 → st.contLen.toNat < cfg.elemIn11 ∧ WholeSamples cfg st) ∧
  (st.conf.codec = .unpack12 → st.contLen.toNat < cfg.elemIn12 ∧ WholeSamples cfg st) ∧
  (st.drop = true → st.corrupt = true ∧ st.outLen = 0 ∧ st.contLen = 0) ∧
  (st.lossFirst = true → st.lossMark = true) ∧ (st.lossLast = true → st.lossMark = true) ∧
  (st.pstate = .awaitingConfiguration →
    st.outLen = 0 ∧ st.contLen = 0 ∧ st.trailPad = 0 ∧ st.corrupt = false ∧ st.drop = false ∧ st.lossMark = false)

/-- A conversion that has its reference waits for a later clock read (R211, R219). -/
def Stream.pastReference (st : Stream) : Bool :=
  match st.job with
  | none => false
  | some j => decide (j.wait.stage = .clock)

/-- A conversion waits inside `CS.INIT`, which writes the stream's registers when its clock read is answered (R213). -/
def Stream.initializing (st : Stream) : Bool :=
  st.pastReference && (match st.job with
    | none => false
    | some j => decide (j.wait.op ≠ .hostonly))

/-- The synchronizer registers: R44 (j); and, `CS.INIT` done, the local reference is the shared one, the total a whole number of
wraps, the tick count not negative (R213, R215, R216). -/
abbrev SyncInv (cfg : Cfg) (ref : ClockRef) (st : Stream) : Prop :=
  st.syFirst = false → ref.valid = true ∧
    (st.initializing = false → st.syLref = ref.tick ∧ st.syTotal.toNat % 2 ^ cfg.tickBits = 0 ∧
      ref.tick.toNat ≤ st.syTotal.toNat + st.syLastTick.toNat)

/-- The guards of R21: what an armed stream needs was supplied, and is legal (R162, R163); the tables are whole or absent
(R251). -/
abbrev GuardInv (cfg : Cfg) (capValid : Bool) (st : Stream) : Prop :=
  (st.cfgValid = true → configLegal cfg st.conf = true ∧ codecOutOfDomain cfg st.conf.codec = false) ∧
  (st.pstate ≠ .awaitingConfiguration →
    capValid = true ∧ st.cfgValid = true ∧
      (st.conf.codec = .pass ∨ st.conf.lutEn = false ∨ st.calValid = true)) ∧
  (st.calValid = true → Holds st.s2d cfg.maxCode ∧ Holds st.d2s (cfg.maxDepth + 1)) ∧
  (st.calValid = false → st.s2d = [] ∧ st.d2s = [])

/-- The locks a conversion in flight is under (R72, R74): before `CLK_LOCK`, inside it with no reference yet, or past it. A
zero tick establishes nothing (R211). -/
def waitSound (s : State) (sid : Nat) (w : TimeWait) : Bool :=
  decide (w.op.tick.toNat < 2 ^ s.cfg.tickBits) &&
  (match w.op with
    | .tohost tick => decide (w.stage = .clock) || decide (tick ≠ 0)
    | .hostonly => true
    | .establish _ => false
    | .init _ => false) &&
  (match w.stage with
    | .lock => decide (s.clkLock ≠ some (.rd sid))
    | .reference => decide (s.clkLock = some (.rd sid)) && !s.ref.valid
    | .clock => decide (s.clkLock ≠ some (.rd sid)))

/-- What a conversion in flight was started by: the reader agent at `HOSTOP`, which takes no stream lock (R287), or a chunk,
which holds `STREAM_LOCK[sid]` to its end (R75). -/
def userSound (sid : Nat) (st : Stream) (u : TimeUser) : Bool :=
  match u with
  | .asked (some a) => decide (a = .rd sid) && decide (st.lock = none)
  | .asked none => false
  | .parser (.chunk _) => decide (st.lock = some (.rd sid)) && decide (st.pstate = .readingHeader)
  | .parser .packet => false
  | .parser (.header _) => false

/-- The operation of `RD[sid]` in flight, or a free lock where there is none (R18, R75). -/
def jobSound (s : State) (sid : Nat) (st : Stream) : Bool :=
  match st.job with
  | none => decide (st.lock = none) && decide (s.clkLock ≠ some (.rd sid))
  | some j => waitSound s sid j.wait && userSound sid st j.user

/-- A sound stream record. -/
structure StreamInv (s : State) (sid : Nat) (st : Stream) : Prop where
  job : jobSound s sid st = true
  parser : ParserInv s.cap.magicD2H st
  frame : FrameInv s.cfg st
  sync : SyncInv s.cfg s.ref st
  guard : GuardInv s.cfg s.capValid st

/-- The body gathered so far where an exchange gathers one (R130), and what it sends where it sends (R123, R125). -/
def phaseSound (x : Exchange) : Bool :=
  match x.phase with
  | .start => true
  | .send bytes => decide (bytes = x.reqFrame)
  | .pollReply => true
  | .reply => true
  | .pollBody size => decide (x.bodyLen < size)
  | .body size => decide (x.bodyLen < size)

/-- What an exchange in flight has (R28, R123, R125, R127, R130): its lock, its registers within their bounds, and, where it
waits for a raw receive, no answer it has not taken. -/
abbrev ExchangeInv (s : State) (x : Exchange) : Prop :=
  s.cmdLock = some x.owner ∧ isIssuer x.owner = true ∧ s.nextId = nextCorrelation s.cfg x.reqId ∧
  x.nrCnt.toNat ≤ s.cfg.notReadyRetries ∧ x.xrCnt.toNat ≤ s.cfg.xportRetries ∧
  x.reqFrame.length ≤ s.cap.maxPkt.toNat ∧ x.rxBuf.length ≤ s.cap.maxPkt.toNat ∧
  x.body.length = min x.bodyLen.toNat s.cfg.bodyMax ∧ (x.phase.receives = true → s.io.recvQ = []) ∧ phaseSound x = true

/-- The invariant of the machine. -/
structure Inv (s : State) : Prop where
  cfg : cfgLegal s.cfg = true
  count : s.streams.length = s.cfg.nStreams
  streams : ∀ sid st, s.streams[sid]? = some st → StreamInv s sid st
  cap : s.capValid = true → s.cap.hdrVariant = 0 ∧ 10 ≤ s.cap.maxPkt.toNat
  clkLock : ∀ a, s.clkLock = some a → ∃ sid, a = .rd sid ∧ sid < s.streams.length
  refHost : s.ref.valid = true ∨ (∃ st ∈ s.streams, st.pastReference = true) →
    s.ref.host ≤ s.io.clock.last ∧ s.ref.tick.toNat < 2 ^ s.cfg.tickBits
  exchange : ∀ x, s.exchange = some x → ExchangeInv s x
  idle : s.exchange = none → s.cmdLock = none
  admitted : ∀ c ∈ s.admitted, isIssuer c.agent = true
  held : ∀ i ∈ s.held, (encode DecodeCtx.ref i).isSome = true ∧ i.check s.cfg = none

/-- The operations that may clear `REF_VALID` (R44 (i), R29). -/
def clearsReference : Instr → Bool
  | .ctConnect _ _ _ => true
  | .ctDisconnect _ => true
  | .hwReset => true
  | _ => false

/-- The operation a step runs, none where it runs none. -/
def stepRuns (s : State) : Option Instr :=
  match s.select with
  | .run i _ => some i
  | _ => none

/-- A step kept the shared reference, or ran an operation that may clear it (R44 (i)). -/
abbrev ReferenceKept (s t : State) : Prop :=
  s.ref.valid = true → t.ref = s.ref ∨ (stepRuns s).any clearsReference = true

/-- A run of `PR.CHUNK` on one stream, chunk after chunk (R190). -/
def runChunks (sid : Nat) : List (List Byte) → State → Outcome
  | [], s => .next s
  | b :: bs, s =>
    match exec (.prChunk sid b) s with
    | .next t => runChunks sid bs t
    | .fault e => .fault e
    | .refused r => .refused r

/-! ### The terms statements are written in -/

/-- The host clock holds an answer not below its last one: every read answers it (R110: the last one holds until
changed). -/
abbrev ClockSteady (io : Io) (v : Micros) : Prop :=
  io.clock.queue = [] ∧ io.clock.rest = some v ∧ io.clock.last ≤ v

/-- Every read of the host clock has an answer, and a free `CLK_LOCK` is taken at once: a conversion waits for nothing. -/
abbrev Unhindered (s : State) : Prop :=
  s.io.clock.rest ≠ none ∧ s.io.grantLocks = true ∧ s.clkLock = none

/-- The ports after putting out `os` and nothing else. -/
def Io.puts (io : Io) (os : List Output) : Io := { io with trace := io.trace ++ os }

/-- The ports after `k` reads of a clock that holds `v`, and nothing else. -/
def Io.reads (io : Io) (v : Micros) (k : Nat) : Io :=
  { io with clock := { io.clock with last := v, reads := io.clock.reads + k } }

/-- A state with another record of stream `sid`, other ports and another returned value: everything else is unchanged. -/
def State.put (s : State) (sid : Nat) (st : Stream) (io : Io) (r : Ret) : State :=
  { s with streams := s.streams.set sid st, io := io, ret := r }

/-- One operation after another: the second runs on the state the first leaves, and a stop of the first is the outcome. -/
def andThen (o : Outcome) (next : State → Outcome) : Outcome :=
  match o with
  | .next t => next t
  | .fault e => .fault e
  | .refused r => .refused r

/-- A state whose record of stream `sid` is changed by `f` and whose returned value is `r`. -/
def State.edit (s : State) (sid : Nat) (f : Stream → Stream) (r : Ret) : State :=
  { s with streams := s.streams.modify sid f, ret := r }

/-- The sample a raw code stands for (R245): the no-data value beyond the range, the table's cell where the stream uses its
table, the code itself otherwise. -/
def State.sample (s : State) (st : Stream) (code : Nat) : Half :=
  if s.cfg.maxCode ≤ code then BitVec.ofNat 16 s.cfg.noData
  else if st.conf.lutEn then (readCell st.s2d code).getD 0
  else BitVec.ofNat 16 code

/-- A stream whose table can be read wherever it is used. -/
abbrev TableReady (cfg : Cfg) (st : Stream) : Prop := st.conf.lutEn = false ∨ Holds st.s2d cfg.maxCode

/-- A stream after an overflow (R186): corrupt, dropping, both buffers empty. -/
def Stream.overflowed (st : Stream) : Stream :=
  { st with corrupt := true, drop := true, outLen := 0, out := [], contLen := 0, cont := [] }

/-- A stream with its frame registers at their start (R181). -/
def Stream.frameless (st : Stream) : Stream :=
  { st with outLen := 0, out := [], contLen := 0, cont := [], corrupt := false, drop := false, trailPad := 0,
            lossMark := false, lossFirst := false, lossLast := false }

/-- A stream whose parser looks for the next magic (R176). -/
def Stream.seeking (st : Stream) : Stream :=
  { st with pstate := .seekingMagic, magicHalf := false, hdrCnt := 0, hdr := [], dataLeft := 0, dataOff := 0 }

/-- A store that reads as before but for `bs` from address `n` up. -/
abbrev StoresAt {α : Type} (m m' : Cells α) (n : Nat) (bs : List α) : Prop :=
  ∀ a, readCell m' a = if n ≤ a ∧ a < n + bs.length then bs[a - n]? else readCell m a

/-- The two bytes of `CAP.MAGIC_D2H` stand at offset `i` of a chunk, low byte first (R128). -/
abbrev MagicAt (cap : Cap) (chunk : List Byte) (i : Nat) : Prop :=
  chunk[i]? = some (loByte cap.magicD2H) ∧ chunk[i + 1]? = some (hiByte cap.magicD2H)

/-- The response timeout of an opcode (R26). -/
def State.timeout (s : State) (op : Half) : Word := opLookup s.cap.opTimeout op

/-- The waits after a command: the inter-command delay of a successful one, where the opcode has one (R134). -/
def State.delays (s : State) (op : Half) (r : ExecResult) : List Output :=
  match r with
  | .ok _ => if opLookup s.cap.opDelay op = 0 then [] else [.delay (opLookup s.cap.opDelay op).toNat]
  | .err _ => []

/-- The filler samples of `PR.PAD` as bytes: `k` samples of `n` bytes (R185). -/
def fillerBytes (cfg : Cfg) (n k : Nat) : List Byte := (List.replicate k (fillerSample cfg n)).flatten

/-- `pack(c0 .. c15)` of R247 at width `w`: one big-endian number of `n` bytes. -/
def packNat (w : Nat) : List Nat → Nat
  | [] => 0
  | c :: cs => c * 2 ^ (w * cs.length) + packNat w cs

/-- The `n` bytes of a number, high first. -/
def beBytes (n v : Nat) : List Byte := (leBytes n v).reverse

/-- An element that holds the given codes (R247). -/
def packElement (w n : Nat) (codes : List Nat) : List Byte := beBytes n (packNat w codes)

end Sys2Proof.Machine
end

