-- ==== Sys2Proof/Certificates/Slice0/Obligations.lean ====
section
/-! DEFINITION. The statements for the provers, from the numbered rules of spec/. A next state is written out whole, as an
update of the state before: what the update does not name is unchanged. -/

open Sys2Proof Sys2Proof.Machine

/-! ### Encoding -/

/-- Decoding an encoded operation gives it back, for every operand its encoding carries (R91, R92, R97, R99, R108). -/
def Obligations.DecodeEncode : Prop :=
  ∀ (ctx : DecodeCtx) (i : Instr) (e : Encoded),
    encode ctx i = some e → encodable ctx i = true → decode ctx e = .ok i

/-- Every encoding in bytes has one meaning: encoding what it decodes to gives the same bytes. (A host operation's
operands that its selector does not use are not part of the operation.) -/
def Obligations.EncodeDecode : Prop :=
  ∀ (ctx : DecodeCtx) (i : Instr) (e : Encoded),
    (∀ a sel args, e ≠ .input (.hostop a sel args)) → decode ctx e = .ok i →
      encode ctx i = some e ∧ encodable ctx i = true

/-- The worked words of R107 decode to what they stand for, and so do two words of the opcode table. What the table's words
leave out is the model's choice (log entry 30, DESIGN CHOICE): the agent of the row, stream 0 and operands of zeros for the
selector 0x12, no data for the 80 bits of a reply. -/
def Obligations.DecodeWords : Prop :=
  decode DecodeCtx.ref (.input (.packet 0 0x112233440003010272004252)) =
    .ok (.pktData 0 0x7200 0x0102 3 0x11223344) ∧
  decode DecodeCtx.ref (.input (.packet 0 0x000500030000000071004252)) = .ok (.pktSof 0 0 0 0x00050003) ∧
  decode DecodeCtx.ref (.request [0x47, 0x4D, 0x02, 0x00, 0x02, 0x00, 0x07, 0x00, 0x01, 0x00]) =
    .ok (.ctFrame 2 7 [0x01, 0x00]) ∧
  decode DecodeCtx.ref (.input (.reply [0x52, 0x42, 0x04, 0x00, 0x02, 0x00, 0x07, 0x00, 0x00, 0x00, 0x2A, 0x00])) =
    .ok (.rspAck 4 2 7 [0x2A, 0x00]) ∧
  decodeTableWord 8 0x12 = some (.prStop .host 0) ∧
  decodeTableWord 80 0x000D0000000000004252 = some (.rspNackNotReady 0 0 0 [])

/-! ### The step -/

/-- When the next stimulus has its turn and is a port transaction that decodes to an operation with well-formed operands,
and its agent is free, the step is that operation on the state without the transaction. A reset has its turn always
(R281, R283); the counter of free choices is the model's (log entry 11). -/
def Obligations.StepRunsDecoded : Prop :=
  ∀ (s : State) (t : Transaction) (rest : List Stimulus) (i : Instr),
    cfgLegal s.cfg = true → s.stimuli = .port t :: rest → t = .reset ∨ s.turn = some .stimulus →
    decodeInput (s.decodeCtx t) t = .ok i → i.wellFormed s.cfg → s.busy i = false →
      step s = exec i { s with stimuli := rest, choices := s.choicesAfter }

/-- Every turn (R18, R72, R281, R283). An operation whose agent is not free is held, a packet as its bytes (kept in `held`:
log entry 32); a held operation begins, an admitted command takes its lock, a conversion or an exchange goes on, each in
its turn; a turn is one of what can come next, and where nothing can the step changes nothing (R149). Which of several
has its turn is a free value (log entry 11). -/
def Obligations.StepTurns : Prop :=
  ∀ s : State, cfgLegal s.cfg = true →
    let s' := { s with choices := s.choicesAfter }
    (∀ (t : Transaction) (rest : List Stimulus) (i : Instr), s.stimuli = .port t :: rest → s.turn = some .stimulus →
      decodeInput (s.decodeCtx t) t = .ok i → i.wellFormed s.cfg → s.busy i = true →
      let later : Instr := match t with
        | .packet sid hw => .prChunk sid (packetBytes hw)
        | _ => i
      step s = .next { s' with stimuli := rest, held := s.held ++ [later], ret := .waiting }) ∧
    (∀ (k : Nat) (i : Instr), s.turn = some (.held k) → s.held[k]? = some i →
      step s = exec i { s' with held := s.held.eraseIdx k }) ∧
    (∀ (k : Nat) (c : Command), s.turn = some (.admitted k) → s.admitted[k]? = some c →
      step s = { s' with admitted := s.admitted.eraseIdx k }.beginExchange c.agent c.op c.payload) ∧
    (∀ sid, s.turn = some (.reader sid) → step s = s'.resumeReader sid) ∧
    (s.turn = some .exchange → step s = s'.resumeExchange) ∧
    (∀ t, s.turn = some t → t ∈ s.turns) ∧
    (s.turns = [] → step s = .next s)

/-- What the environment supplies (R10, R110): clock answers are taken in order, none below the last (R14); raw answers queue
in order; an answer at `CTRL_RX` that no exchange waits for stays in the channel (R139); one longer than `CAP.MAX_PKT` meets
no receive (U3, R292). The model's choices (DESIGN CHOICE): log entry 6 (an answer below the last one is raised to it, a new
clock line replaces answers not yet taken, a read with nothing supplied has no answer), 7 (the answer every later send has),
8 (the queue of receive answers in State), 12 (free locks can be withheld). -/
def Obligations.EnvSupplies : Prop :=
  (∀ (s : State) (x : Stimulus) (rest : List Stimulus), cfgLegal s.cfg = true → s.stimuli = x :: rest →
    s.turn = some .stimulus →
    let t := { s with stimuli := rest, choices := s.choicesAfter }
    (∀ vs r, x = .clock vs r → step s = .next { t with io :=
      { s.io with clock := { s.io.clock with queue := vs, rest := r } } }) ∧
    (∀ vs r, x = .send vs r → step s = .next { t with io := { s.io with sendQ := s.io.sendQ ++ vs, sendRest := r } }) ∧
    (∀ b, x = .locks b → step s = .next { t with io := { s.io with grantLocks := b } }) ∧
    (∀ vs, x = .recv vs → (∀ y, s.exchange = some y → y.phase.receives = false) →
      step s = .next { t with io := { s.io with recvQ := s.io.recvQ ++ vs } }) ∧
    (∀ y bytes, x = .recv [.data bytes] → s.exchange = some y → y.phase = .reply ∨ (∃ size, y.phase = .body size) →
      s.io.recvQ = [] → s.cap.maxPkt.toNat < bytes.length → step s = .refused .oversizeAnswer)) ∧
  (∀ (io : Io) (v : Micros) (vs : List Micros), io.clock.queue = v :: vs →
    hostClock io = some (if v.toNat < io.clock.last.toNat then io.clock.last else v, { io with clock :=
      { io.clock with queue := vs, last := if v.toNat < io.clock.last.toNat then io.clock.last else v
                      reads := io.clock.reads + 1 } })) ∧
  (∀ (io : Io) (v : Micros), ClockSteady io v → hostClock io = some (v, io.reads v 1)) ∧
  (∀ io : Io, io.clock.queue = [] → io.clock.rest = none → hostClock io = none)

/-! ### Invariants -/

/-- The reset state is sound (R44, R310, R311). -/
def Obligations.ResetInv : Prop := Inv State.reset

/-- Every step keeps the invariant, and with it R44 (a) to (k): (a) holds by the type of `PSTATE`, (i) is `ReferenceKept`, the
others are clauses of `Inv`; (j), that a synchronized stream has a reference, also where a `CT.CONNECT`, `CT.DISCONNECT`,
`PR.STOP` or `PR.ARM` comes inside a conversion (R223; log entries 37, DEDUCED, and 41, DESIGN CHOICE). (e) is stated for the
unpack codecs and `PASS`. -/
def Obligations.StepKeepsInv : Prop :=
  ∀ s t : State, Inv s → step s = .next t → Inv t ∧ ReferenceKept s t

/-- In a sound state no step reads a cell that no rule has written, and no step meets a parser or codec without a meaning
(R21, R60, R312, U1, U9, U10, U24): the one fault left is a value beyond 64 bits (R222, U14). -/
def Obligations.StepFaultsOnlyWidth : Prop :=
  ∀ (s : State) (e : Fault), Inv s → step s = .fault e → e = .outOf64Bits

/-- Where the chunks of a stream are cut changes nothing (R190): two runs of chunks with the same concatenation end in the
same outcome, state, events and commits included, where no conversion of a packet's time has to wait. -/
def Obligations.ChunkCutIndependence : Prop :=
  ∀ (s : State) (sid : Nat) (xs ys : List (List Byte)),
    Inv s → Unhindered s → (∀ st, s.streams[sid]? = some st → st.job = none) → xs ≠ [] → ys ≠ [] →
    xs.flatten = ys.flatten → runChunks sid xs s = runChunks sid ys s

/-! ### Frames over all operations -/

/-- What an operation of stream `sid` can change at all: the record of that stream, the shared reference with its lock, the
ports, what is held, and the value returned. No other stream's record, nothing of the connection (R20, R78, R255, R298). -/
def Obligations.StreamFrame : Prop :=
  ∀ (i : Instr) (sid : Nat) (s t : State), i.stream? = some sid → exec i s = .next t →
    ∃ st, t = { s with streams := s.streams.set sid st, ref := t.ref, clkLock := t.clkLock, io := t.io, held := t.held,
                       ret := t.ret }

/-- An operation of stream `sid` does not see the other streams: in two states that differ in other streams' records only
it has the same outcome on its own record, the reference, the ports and the result (R20, R255). -/
def Obligations.StreamNoninterference : Prop :=
  ∀ (i : Instr) (sid : Nat) (s t : State) (others : List Stream), i.stream? = some sid →
    others[sid]? = s.streams[sid]? → exec i s = .next t →
      ∃ u, exec i { s with streams := others } = .next u ∧ u.streams[sid]? = t.streams[sid]? ∧
        u.ref = t.ref ∧ u.clkLock = t.clkLock ∧ u.io = t.io ∧ u.held = t.held ∧ u.ret = t.ret

/-- Command exchanges and stream operations share no state they both write (R78, R298): an operation of the command
transport, `CT.CONNECT` and `CT.DISCONNECT` excepted, leaves every stream record, the clock reference, `CLK_LOCK` and the
capability record. Those two change the capability record, `NEXT_ID`, `REF_VALID` and the `SY_FIRST` of every stream (R3,
R121, R122), and nothing else of a stream. -/
def Obligations.CommandFrame : Prop :=
  ∀ (i : Instr) (s t : State), exec i s = .next t →
    (i.stream? = none → clearsReference i = false →
      t = { s with nextId := t.nextId, cmdLock := t.cmdLock, exchange := t.exchange, admitted := t.admitted, io := t.io,
                   ret := t.ret }) ∧
    ((∃ a v table, i = .ctConnect a v table) ∨ (∃ a, i = .ctDisconnect a) →
      t = { s with cap := t.cap, capVersion := t.capVersion, capValid := t.capValid, nextId := t.nextId
                   ref := { s.ref with valid := t.ref.valid }, streams := t.streams, io := t.io, ret := t.ret } ∧
      (t.streams = s.streams ∨ t.streams = s.streams.map fun st => { st with syFirst := true }))

/-- Stream configuration is written by `PR.CONFIGURE` alone and only in `AwaitingConfiguration`, calibration and tables by
`BD.CALIBRATE` alone (R30, R39, R40, R41); reset apart. -/
def Obligations.ConfigurationFrame : Prop :=
  ∀ (i : Instr) (s t : State) (k : Nat) (st st' : Stream), i ≠ .hwReset → exec i s = .next t →
    s.streams[k]? = some st → t.streams[k]? = some st' →
      ((∀ a c, i ≠ .prConfigure a k c) ∨ st.pstate ≠ .awaitingConfiguration →
        st'.conf = st.conf ∧ st'.cfgValid = st.cfgValid) ∧
      ((∀ a cal mn mx, i ≠ .bdCalibrate a k cal mn mx) →
        st'.calValid = st.calValid ∧ st'.cal = st.cal ∧ st'.minCut = st.minCut ∧ st'.maxCut = st.maxCut ∧
          st'.s2d = st.s2d ∧ st'.d2s = st.d2s)

/-- The outputs only grow, and neither the host clock nor the count of its reads goes back (R14, R271). -/
def Obligations.PortsOnlyGrow : Prop :=
  ∀ (i : Instr) (s t : State), exec i s = .next t →
    (∃ os, t.io.trace = s.io.trace ++ os) ∧ s.io.clock.last ≤ t.io.clock.last ∧
      s.io.clock.reads ≤ t.io.clock.reads

/-- What has no step: a host operation started by an agent not in its row, or by no agent of the block (R287, R298), an unknown
selector (R108), an oversize request (R124), `UNPACK11` with more than 2^11 codes, and every step under a configuration outside
its domain (R8, R288; log entry 25 for the bounds that U13 does not name). -/
def Obligations.Refusals : Prop :=
  (∀ (s : State) (a : Agent) (sid : Nat) (v : Version) (table : List CapRow) (c : StreamConfig) (cal : CalRecord)
      (mn mx : Half) (which : TableSel) (idx : Nat), a ≠ .host → codecOutOfDomain s.cfg c.codec = false →
    ∀ i ∈ [Instr.ctConnect a v table, .ctDisconnect a, .prConfigure a sid c, .prArm a sid, .prStop a sid,
        .bdCalibrate a sid cal mn mx, .bdReadtable a sid which idx],
      exec i s = .refused .wrongAgent) ∧
  (∀ (s : State) (a : Agent) (op : Half) (payload : List Byte), (∀ k, a ≠ .ci k) →
    exec (.ctExec a op payload) s = .refused .wrongAgent) ∧
  (∀ (s : State) (a : Agent) (sid : Nat) (tick : Tick), a ≠ .rd sid →
    exec (.csTohost a sid tick) s = .refused .wrongAgent ∧ exec (.csHostonly a sid) s = .refused .wrongAgent) ∧
  (∀ (s : State) (j sid : Nat) (input : List Byte), s.cfg.nStreams ≤ j →
    exec (.bdUnpack (.rd j) sid input) s = .refused .wrongAgent) ∧
  (∀ (s : State) (a : Agent) (sel : Byte) (args : HostArgs) (rest : List Stimulus), cfgLegal s.cfg = true →
    s.stimuli = .port (.hostop a sel args) :: rest → s.turn = some .stimulus →
    sel.toNat ∉ [0x01, 0x02, 0x03, 0x10, 0x11, 0x12, 0x20, 0x21, 0x22, 0x30, 0x31] →
      step s = .refused (.undecodable (.unknownSelector sel))) ∧
  (∀ (s : State) (k : Nat) (op id : Half) (payload : List Byte), s.cap.maxPkt.toNat < 8 + payload.length →
    exec (.ctFrame op id payload) s = .refused .oversizeRequest ∧
    (s.capValid = true → opLookup s.cap.opValid op = true →
      exec (.ctExec (.ci k) op payload) s = .refused .oversizeRequest)) ∧
  (∀ (s : State) (a : Agent) (sid : Nat) (c : StreamConfig), codecOutOfDomain s.cfg c.codec = true →
    exec (.prConfigure a sid c) s = .refused .illegalConfiguration) ∧
  (∀ s : State, s.cfg.freq = 0 ∨ s.cfg.nStreams = 0 ∨ 65536 < s.cfg.maxCode ∨ 65536 ≤ s.cfg.noData ∨
    65536 ≤ s.cfg.maxDepth ∨ cfgLegal s.cfg = false → step s = .refused .illegalConfiguration)

/-! ### Reset -/

/-- `HW.RESET` (R310): every operation in progress is abandoned, every lock is free, every register that has a reset value
has it, and no result is returned and nothing is put out. -/
def Obligations.HwReset : Prop :=
  ∀ s : State, ∃ t, exec .hwReset s = .next t ∧
    t.exchange = none ∧ t.held = [] ∧ t.admitted = [] ∧ t.ret = .none ∧ t.io = s.io ∧ t.stimuli = s.stimuli ∧
    t.cfg = s.cfg ∧ t.cmdLock = none ∧ t.clkLock = none ∧ t.capValid = false ∧ t.nextId = 0 ∧ t.ref.valid = false ∧
    t.streams.length = s.streams.length ∧
    ∀ st ∈ t.streams,
      st.lock = none ∧ st.job = none ∧ st.pstate = .awaitingConfiguration ∧ st.ignLeft = 0 ∧ st.magicHalf = false ∧
      st.hdrCnt = 0 ∧ st.dataLeft = 0 ∧ st.dataOff = 0 ∧ st.lastSeq = 0 ∧ st.lossMark = false ∧ st.lossFirst = false ∧
      st.lossLast = false ∧ st.outLen = 0 ∧ st.trailPad = 0 ∧ st.corrupt = false ∧ st.drop = false ∧ st.frameId = 0 ∧
      st.pktTime = 0 ∧ st.contLen = 0 ∧ st.syFirst = true ∧ st.cfgValid = false ∧ st.calValid = false ∧
      (∀ a, readCell st.hdr a = none ∧ readCell st.cont a = none ∧ readCell st.out a = none ∧
        readCell st.s2d a = none ∧ readCell st.d2s a = none)

/-! ### Command transport -/

/-- `CT.CONNECT` (R121) selects the row with the greatest threshold not above the version, in the lexicographic order of
R102, and is refused, with nothing changed, where a condition fails. It waits for nothing (R149), whatever conversion is in
flight. -/
def Obligations.CtConnectSelects : Prop :=
  (∀ a b : Version, versionLe a b = true ↔
    a.major.toNat < b.major.toNat ∨ (a.major = b.major ∧
      (a.minor.toNat < b.minor.toNat ∨ (a.minor = b.minor ∧ a.build.toNat ≤ b.build.toNat)))) ∧
  ∀ (s : State) (v : Version) (table : List CapRow),
    let legal : CapRow → Prop := fun r =>
      s.capValid = false ∧ s.cmdLock = none ∧ (∀ st ∈ s.streams, st.pstate = .awaitingConfiguration) ∧
      table.Pairwise (fun p q => p.threshold ≠ q.threshold) ∧ r ∈ table ∧ versionLe r.threshold v = true ∧
      (∀ q ∈ table, versionLe q.threshold v = true → versionLe q.threshold r.threshold = true) ∧
      r.caps.hdrVariant = 0 ∧ 10 ≤ r.caps.maxPkt.toNat
    (∀ r, legal r → exec (.ctConnect .host v table) s = .next
      { s with cap := r.caps, capVersion := v, capValid := true, nextId := 0, ref := { s.ref with valid := false }
               streams := s.streams.map (fun st => { st with syFirst := true })
               ret := .ok, io := s.io.puts [.result .host .ok] }) ∧
    ((∀ r, ¬ legal r) → exec (.ctConnect .host v table) s = .next
      { s with ret := .refused, io := s.io.puts [.result .host .refused] })

/-- `CT.DISCONNECT` (R122); `NEXT_ID` keeps its value. It waits for nothing (R149), whatever conversion is in flight. -/
def Obligations.CtDisconnect : Prop :=
  ∀ s : State,
    let legal := s.capValid = true ∧ s.cmdLock = none ∧ ∀ st ∈ s.streams, st.pstate = .awaitingConfiguration
    (legal → exec (.ctDisconnect .host) s = .next
      { s with capValid := false, ref := { s.ref with valid := false }
               streams := s.streams.map (fun st => { st with syFirst := true })
               ret := .ok, io := s.io.puts [.result .host .ok] }) ∧
    (¬ legal → exec (.ctDisconnect .host) s = .next
      { s with ret := .refused, io := s.io.puts [.result .host .refused] })

/-- An unsupported opcode sends nothing, reads no clock, takes no lock and no id (R138); it raises its event and returns its
error, whoever else is in an exchange. -/
def Obligations.CtExecUnsupported : Prop :=
  ∀ (s : State) (k : Nat) (op : Half) (payload : List Byte),
    s.capValid = false ∨ opLookup s.cap.opValid op = false →
      exec (.ctExec (.ci k) op payload) s = .next
        { s with ret := .exec (.err .unsupportedOpcode)
                 io := s.io.puts [.event (.unsupportedOpcode op), .result (.ci k) (.exec (.err .unsupportedOpcode))] }

/-- A whole exchange (R123, R127, R136): the lock is free, the send succeeds, the reply with the id taken is there, whatever
its status but not-ready. One frame is sent with the next id, one receive is made, the result is by the table of R99, the
id is consumed, the lock is free again. That only the successor of an id is reduced is log entry 38 (DESIGN CHOICE). -/
def Obligations.CtExecReply : Prop :=
  ∀ (s : State) (k : Nat) (op : Half) (payload : List Byte) (now : Micros) (status : Half) (data : List Byte)
    (q : List RecvAns),
    s.capValid = true → opLookup s.cap.opValid op = true → 8 + payload.length ≤ s.cap.maxPkt.toNat →
    s.cmdLock = none → s.io.grantLocks = true → ClockSteady s.io now → 0 < (s.timeout op).toNat →
    now.toNat + (s.timeout op).toNat < 18446744073709551616 → sendDraw s.io = some .ok → status ≠ 0x000D →
    10 + data.length ≤ s.cap.maxPkt.toNat → 2 + data.length ≤ s.cfg.bodyMax →
    let reply := replyBytes s.cap.magicD2H (BitVec.ofNat 16 (2 + data.length)) op s.nextId status data
    s.io.recvQ = .data reply :: q →
    let r : ExecResult := if status = 0 then .ok data else .err (.deviceRejected (nackName status) status)
    let event := if status = 0 then [] else [Output.event (.deviceRejected (nackName status) status)]
    exec (.ctExec (.ci k) op payload) s = .next
      { s with nextId := BitVec.ofNat 16 ((s.nextId.toNat + 1) % 2 ^ s.cfg.idBits), exchange := none, cmdLock := none
               ret := .exec r
               io := { (s.io.reads now 2).puts ([.tx (frameBytes s.cap.magicH2D op s.nextId payload) (s.timeout op),
                   .rx (s.timeout op)] ++ event ++ s.delays op r ++ [.result (.ci k) (.exec r)]) with
                   recvQ := q, sendQ := s.io.sendQ.tail } }

/-- A device that always answers not-ready (R132, R279): `NOTREADY_RETRIES + 1` attempts with the same frame, one
`DeviceNotReady` event each, then the error; every reply is taken, the id is consumed once. That only the successor of an id is reduced is log entry 38 (DESIGN CHOICE). -/
def Obligations.CtExecNotReadyBound : Prop :=
  ∀ (s : State) (k : Nat) (op : Half) (payload : List Byte) (now : Micros) (q : List RecvAns),
    s.capValid = true → opLookup s.cap.opValid op = true → 8 + payload.length ≤ s.cap.maxPkt.toNat →
    10 ≤ s.cap.maxPkt.toNat → 2 ≤ s.cfg.bodyMax → s.cmdLock = none → s.io.grantLocks = true → ClockSteady s.io now →
    0 < (s.timeout op).toNat → now.toNat + (s.timeout op).toNat < 18446744073709551616 → s.io.sendQ = [] →
    s.io.sendRest = some .ok → s.cfg.notReadyRetries ≤ 3 →
    let reply := replyBytes s.cap.magicD2H 2 op s.nextId 0x000D []
    s.io.recvQ = List.replicate (s.cfg.notReadyRetries + 1) (.data reply) ++ q →
    let attempt := [Output.tx (frameBytes s.cap.magicH2D op s.nextId payload) (s.timeout op), .rx (s.timeout op),
      .event .deviceNotReady]
    exec (.ctExec (.ci k) op payload) s = .next
      { s with nextId := BitVec.ofNat 16 ((s.nextId.toNat + 1) % 2 ^ s.cfg.idBits), exchange := none, cmdLock := none
               ret := .exec (.err .deviceNotReady)
               io := { (s.io.reads now (2 * (s.cfg.notReadyRetries + 1))).puts
                   ((List.replicate s.cfg.notReadyRetries (attempt ++ [.delay s.cfg.notReadyBackoffUs])).flatten ++
                     attempt ++ [.result (.ci k) (.exec (.err .deviceNotReady))]) with recvQ := q } }

/-- An exchange waits where the environment has no answer yet: at a clock read, a raw send, a raw receive (R18). It is in
flight, holds `CMD_LOCK` and its transient registers (R28, R123, R127); that it waits in State is the model's form (log
entries 8, 10), and what a register holds that no rule has written yet is its choice (log entry 40, DESIGN CHOICE), as is what
an id is where `ID_BITS` is not 16 (log entry 38, DESIGN CHOICE). While the lock is held, or withheld, another issuer's command waits at it (R72, R76; log entry 12), and in its turn begins as one that
has just come (log entry 11). -/
def Obligations.CtExecWaits : Prop :=
  (∀ (s : State) (k : Nat) (op : Half) (payload : List Byte),
    s.capValid = true → opLookup s.cap.opValid op = true → 8 + payload.length ≤ s.cap.maxPkt.toNat →
    s.cmdLock = none → s.io.grantLocks = true →
    let frame := frameBytes s.cap.magicH2D op s.nextId payload
    let flies : CtPhase → Micros → Io → Prop := fun phase deadline io => exec (.ctExec (.ci k) op payload) s = .next
      { s with nextId := BitVec.ofNat 16 ((s.nextId.toNat + 1) % 2 ^ s.cfg.idBits), cmdLock := some (.ci k)
               ret := .waiting, io := io
               exchange := some { owner := .ci k, reqOp := op, reqId := s.nextId, reqFrame := frame, nrCnt := 0,
                                  xrCnt := 0, deadline := deadline, rxBuf := [], body := [], bodyLen := 0,
                                  phase := phase } }
    (hostClock s.io = none → flies .start 0 s.io) ∧
    (∀ now, ClockSteady s.io now → now.toNat + (s.timeout op).toNat < 18446744073709551616 →
      let deadline := now + (s.timeout op).setWidth 64
      (sendDraw s.io = none → flies (.send frame) deadline (s.io.reads now 1)) ∧
      (sendDraw s.io = some .ok → 0 < (s.timeout op).toNat → s.io.recvQ = [] → flies .reply deadline
        { (s.io.reads now 2).puts [.tx frame (s.timeout op)] with sendQ := s.io.sendQ.tail }))) ∧
  (∀ (s : State) (k : Nat) (op : Half) (payload : List Byte),
    s.capValid = true → opLookup s.cap.opValid op = true → 8 + payload.length ≤ s.cap.maxPkt.toNat →
    s.cmdLock ≠ none ∨ s.io.grantLocks = false → exec (.ctExec (.ci k) op payload) s = .next
      { s with admitted := s.admitted ++ [⟨.ci k, op, payload⟩], ret := .waiting }) ∧
  (∀ (s : State) (j k : Nat) (op : Half) (payload : List Byte), cfgLegal s.cfg = true → s.turn = some (.admitted j) →
    s.admitted[j]? = some ⟨.ci k, op, payload⟩ → s.capValid = true → opLookup s.cap.opValid op = true →
      step s = exec (.ctExec (.ci k) op payload)
        { s with choices := s.choicesAfter, admitted := s.admitted.eraseIdx j })

/-- `CT.FRAME` builds the request frame of R92, byte by byte; a request that does not fit one raw send has no step (R124). -/
def Obligations.CtFrame : Prop :=
  (∀ (s : State) (op id : Half) (payload : List Byte), 8 + payload.length ≤ s.cap.maxPkt.toNat →
    let size := BitVec.ofNat 16 payload.length
    let header := [loByte s.cap.magicH2D, hiByte s.cap.magicH2D, loByte size, hiByte size, loByte op, hiByte op, loByte id,
      hiByte id]
    exec (.ctFrame op id payload) s = .next { s with ret := .bytes (header ++ payload) }) ∧
  (∀ (s : State) (op id : Half) (payload : List Byte), s.cap.maxPkt.toNat < 8 + payload.length →
    exec (.ctFrame op id payload) s = .refused .oversizeRequest)

/-- `CT.SENDR` (R125): failures up to the bound are repeated and raise nothing; the failure after the bound is the error, of
its own kind, raised once. Where the environment has no answer yet the exchange waits at this send (R18). -/
def Obligations.CtSendr : Prop :=
  ∀ (s : State) (x : Exchange) (frame : List Byte) (fails q : List SendAns),
    s.exchange = some x → (∀ a ∈ fails, a ≠ .ok) → frame.length ≤ s.cap.maxPkt.toNat →
    let tx := Output.tx frame (s.timeout x.reqOp)
    (fails.length ≤ s.cfg.xportRetries → s.io.sendQ = fails ++ .ok :: q →
      exec (.ctSendr frame) s = .next
        { s with ret := .ok, exchange := some { x with xrCnt := BitVec.ofNat 3 fails.length }
                 io := { s.io.puts (List.replicate (fails.length + 1) tx) with sendQ := q } }) ∧
    (∀ (last : SendAns) (k : ErrKind) (e : Event), fails.length = s.cfg.xportRetries →
      (last, k, e) ∈ [(SendAns.timeout, ErrKind.transportTimeout, Event.transportTimeout),
        (.stall, .transportStall, .transportStall)] → s.io.sendQ = fails ++ last :: q →
      exec (.ctSendr frame) s = .next
        { s with ret := .err k, exchange := some { x with xrCnt := BitVec.ofNat 3 fails.length }
                 io := { s.io.puts (List.replicate (fails.length + 1) tx ++ [.event e]) with sendQ := q } }) ∧
    (fails.length ≤ s.cfg.xportRetries → s.io.sendQ = fails → s.io.sendRest = none →
      exec (.ctSendr frame) s = .next
        { s with ret := .waiting, exchange := some { x with xrCnt := BitVec.ofNat 3 fails.length, phase := .send frame }
                 io := { s.io.puts (List.replicate fails.length tx) with sendQ := [] } })

/-- `CT.RECVR` (R126): the same retry on the receiving side; a chunk, an empty one too, ends it and is kept in `RXBUF`. Where
the environment has no answer yet the exchange waits at this receive (R18). -/
def Obligations.CtRecvr : Prop :=
  ∀ (s : State) (x : Exchange) (fails q : List RecvAns),
    s.exchange = some x → (∀ a ∈ fails, a = .timeout ∨ a = .stall) → s.cfg.xportRetries ≤ 7 →
    let rx := Output.rx (s.timeout x.reqOp)
    let y := { x with xrCnt := BitVec.ofNat 3 fails.length, phase := x.phase.receiving }
    (∀ chunk : List Byte, fails.length ≤ s.cfg.xportRetries → s.io.recvQ = fails ++ .data chunk :: q →
      chunk.length ≤ s.cap.maxPkt.toNat →
      exec .ctRecvr s = .next
        { s with ret := .bytes chunk, exchange := some { y with rxBuf := chunk }
                 io := { s.io.puts (List.replicate (fails.length + 1) rx) with recvQ := q } }) ∧
    (∀ (last : RecvAns) (k : ErrKind) (e : Event), fails.length = s.cfg.xportRetries →
      (last, k, e) ∈ [(RecvAns.timeout, ErrKind.transportTimeout, Event.transportTimeout),
        (.stall, .transportStall, .transportStall)] → s.io.recvQ = fails ++ last :: q →
      exec .ctRecvr s = .next
        { s with ret := .err k, exchange := some y
                 io := { s.io.puts (List.replicate (fails.length + 1) rx ++ [.event e]) with recvQ := q } }) ∧
    (fails.length ≤ s.cfg.xportRetries → s.io.recvQ = fails →
      exec .ctRecvr s = .next
        { s with ret := .waiting, exchange := some y
                 io := { s.io.puts (List.replicate fails.length rx) with recvQ := [] } })

/-- `CT.ATTEMPT` (R127): a reply with another id is discarded and the loop goes on to the reply with the right one, of any
status (R99); a clock that has reached the deadline ends the attempt with `TransportTimeout` before any receive. Where
start and timeout add up to more than 64 bits, which no rule states, the attempt goes on with some deadline (log entry 23,
DESIGN CHOICE). -/
def Obligations.CtAttempt : Prop :=
  ∀ (s : State) (x : Exchange) (now : Micros), s.exchange = some x → sendDraw s.io = some .ok →
    let t := s.timeout x.reqOp
    (now.toNat + t.toNat < 18446744073709551616 →
    ∀ (stale status : Half) (data : List Byte) (q : List RecvAns), ClockSteady s.io now → 0 < t.toNat →
      stale ≠ x.reqId → 10 + data.length ≤ s.cap.maxPkt.toNat → 2 + data.length ≤ s.cfg.bodyMax →
      let size := BitVec.ofNat 16 (2 + data.length)
      let good := replyBytes s.cap.magicD2H size x.reqOp x.reqId status data
      let r : ExecResult := if status = 0 then .ok data else if status = 0x000D then .err .deviceNotReady
        else .err (.deviceRejected (nackName status) status)
      let event : List Output := if status = 0 then [] else if status = 0x000D then [.event .deviceNotReady]
        else [.event (.deviceRejected (nackName status) status)]
      s.io.recvQ = .data (replyBytes s.cap.magicD2H size x.reqOp stale status data) :: .data good :: q →
      exec .ctAttempt s = .next
        { s with ret := .exec r
                 exchange := some { x with deadline := now + t.setWidth 64, xrCnt := 0, rxBuf := good,
                                           body := halfBytes status ++ data, bodyLen := size, phase := .reply }
                 io := { (s.io.reads now 3).puts ([.tx x.reqFrame t, .rx t, .event (.protocolMismatch .id), .rx t] ++
                           event) with recvQ := q, sendQ := s.io.sendQ.tail } }) ∧
    (now.toNat + t.toNat < 18446744073709551616 →
    ∀ later : Micros, s.io.clock.last ≤ now → now ≤ later → now.toNat + t.toNat ≤ later.toNat →
      s.io.clock.queue = [now, later] →
      exec .ctAttempt s = .next
        { s with ret := .exec (.err .transportTimeout)
                 exchange := some { x with deadline := now + t.setWidth 64, xrCnt := 0 }
                 io := { s.io.puts [.tx x.reqFrame t, .event .transportTimeout] with
                           sendQ := s.io.sendQ.tail
                           clock := { s.io.clock with queue := [], last := later, reads := s.io.clock.reads + 2 } } }) ∧
    (18446744073709551616 ≤ now.toNat + t.toNat → s.io.clock.last ≤ now → s.io.clock.queue = [now] →
      s.io.clock.rest = none → ∃ deadline, exec .ctAttempt s = .next
        { s with ret := .waiting, exchange := some { x with deadline := deadline, xrCnt := 0, phase := .pollReply }
                 io := { s.io.puts [.tx x.reqFrame t] with
                           sendQ := s.io.sendQ.tail
                           clock := { s.io.clock with queue := [], last := now, reads := s.io.clock.reads + 1 } } })

/-- `CT.SCAN` (R128): the least offset of the magic decides; no magic, a header cut short, and a size below 2 each raise
their cause, in this order; every other header is returned. `CT.MATCH` (R129): true exactly for the request's id and opcode; the id is tested first. -/
def Obligations.CtScanMatch : Prop :=
  (∀ (s : State) (chunk : List Byte),
    let done : ScanResult → List Output → Host.Outcome State Fault Refusal := fun r os =>
      .next { s with ret := .scan r, io := s.io.puts os }
    (chunk = [] → exec (.ctScan chunk) s = done .none []) ∧
    (chunk ≠ [] → (∀ i, ¬ MagicAt s.cap chunk i) →
      exec (.ctScan chunk) s = done .none [.event (.protocolMismatch .magic)]) ∧
    (∀ p, MagicAt s.cap chunk p → (∀ i, i < p → ¬ MagicAt s.cap chunk i) →
      (chunk.length < p + 8 → exec (.ctScan chunk) s = done .malformed [.event (.protocolMismatch .truncated)]) ∧
      (∀ m0 m1 s0 s1 o0 o1 i0 i1 rest, chunk.drop p = m0 :: m1 :: s0 :: s1 :: o0 :: o1 :: i0 :: i1 :: rest →
        ((le16 s0 s1).toNat < 2 →
          exec (.ctScan chunk) s = done .malformed [.event (.protocolMismatch .size)]) ∧
        (2 ≤ (le16 s0 s1).toNat →
          exec (.ctScan chunk) s = done (.hdr ⟨p, le16 s0 s1, le16 o0 o1, le16 i0 i1⟩) [])))) ∧
  (∀ (s : State) (x : Exchange) (h : ReplyHdr), s.exchange = some x →
    let done : Bool → List Output → Host.Outcome State Fault Refusal := fun b os =>
      .next { s with ret := .flag b, io := s.io.puts os }
    (h.id = x.reqId → h.op = x.reqOp → exec (.ctMatch h) s = done true []) ∧
    (h.id ≠ x.reqId → exec (.ctMatch h) s = done false [.event (.protocolMismatch .id)]) ∧
    (h.id = x.reqId → h.op ≠ x.reqOp → exec (.ctMatch h) s = done false [.event (.protocolMismatch .opcode)]))

/-- `CT.GATHER` (R130, R98): the body bytes that came with the header, then continuation chunks verbatim until the declared
size is reached, the surplus dropped; a clock at the deadline ends it. Where the environment has no answer yet the exchange
waits, at this deadline test or at this receive (R18). What `BODY` holds beyond `BODY_MAX` bytes is free (log entry 39, DESIGN
CHOICE); all else is as for a smaller body. -/
def Obligations.CtGather : Prop :=
  ∀ (s : State) (x : Exchange) (chunk : List Byte) (h : ReplyHdr), s.exchange = some x → h.p + 8 ≤ chunk.length →
    let first := chunk.drop (h.p + 8)
    let size := h.size.toNat
    let t := s.timeout x.reqOp
    let held : List Byte → List Byte → Prop := fun bytes body =>
      (bytes.length ≤ s.cfg.bodyMax → body = bytes) ∧ (s.cfg.bodyMax < bytes.length → body.length = s.cfg.bodyMax)
    (size ≤ first.length → ∃ body, held (first.take size) body ∧ exec (.ctGather chunk h) s = .next
      { s with ret := .bytes body, exchange := some { x with body := body, bodyLen := h.size } }) ∧
    (∀ (now : Micros) (parts : List (List Byte)) (last : List Byte) (q : List RecvAns), ClockSteady s.io now →
      now < x.deadline → first.length + parts.flatten.length < size →
      size ≤ first.length + parts.flatten.length + last.length →
      (∀ d ∈ parts ++ [last], d.length ≤ s.cap.maxPkt.toNat) →
      s.io.recvQ = (parts ++ [last]).map RecvAns.data ++ q →
      ∃ body, held ((first ++ parts.flatten ++ last).take size) body ∧ exec (.ctGather chunk h) s = .next
        { s with ret := .bytes body
                 exchange := some { x with body := body, bodyLen := h.size, rxBuf := last, xrCnt := 0
                                           phase := .body h.size }
                 io := { (s.io.reads now (parts.length + 1)).puts (List.replicate (parts.length + 1) (.rx t)) with
                           recvQ := q } }) ∧
    (first.length < size → ∃ body, held first body ∧
      let y := { x with body := body, bodyLen := BitVec.ofNat 16 first.length }
      (∀ now : Micros, ClockSteady s.io now →
        (x.deadline ≤ now → exec (.ctGather chunk h) s = .next
          { s with ret := .err .transportTimeout, exchange := some y
                   io := (s.io.reads now 1).puts [.event .transportTimeout] }) ∧
        (now < x.deadline → s.io.recvQ = [] → exec (.ctGather chunk h) s = .next
          { s with ret := .waiting, exchange := some { y with xrCnt := 0, phase := .body h.size }
                   io := s.io.reads now 1 })) ∧
      (hostClock s.io = none → exec (.ctGather chunk h) s = .next
        { s with ret := .waiting, exchange := some { y with phase := .pollBody h.size } }))

/-- `CT.STATUS` (R131, R99): the status word decides the result and the event, by the table. -/
def Obligations.CtStatus : Prop :=
  ∀ (s : State) (status : Half) (data : List Byte),
    let body := loByte status :: hiByte status :: data
    let rejected : NackName → Host.Outcome State Fault Refusal := fun n =>
      .next { s with ret := .exec (.err (.deviceRejected n status)), io := s.io.puts [.event (.deviceRejected n status)] }
    let named : List (Half × NackName) := [(0x0003, .crcMismatch), (0x0005, .badParameters), (0x0007, .fileNotFound),
      (0x000E, .overflow), (0x0010, .fileSystemLocked)]
    (status = 0 → exec (.ctStatus body) s = .next { s with ret := .exec (.ok data) }) ∧
    (status = 0x000D → exec (.ctStatus body) s = .next
      { s with ret := .exec (.err .deviceNotReady), io := s.io.puts [.event .deviceNotReady] }) ∧
    (∀ e ∈ named, status = e.1 → exec (.ctStatus body) s = rejected e.2) ∧
    (status ≠ 0 → status ≠ 0x000D → (∀ e ∈ named, status ≠ e.1) → exec (.ctStatus body) s = rejected .other)

/-- A matching reply of any class but not-ready, arriving while an exchange waits for it, ends the exchange with the result
of its class (R99, R131) and frees the lock (R284); arriving while no exchange waits for one, any reply stays in the transport
(R139, U21; that the channel is a queue of State is the model's form, log entry 8). -/
def Obligations.RspEndsExchange : Prop :=
  (∀ (s : State) (x : Exchange) (code : Half) (data : List Byte), s.exchange = some x → x.phase = .reply →
    s.io.recvQ = [] → 10 + data.length ≤ s.cap.maxPkt.toNat → 2 + data.length ≤ s.cfg.bodyMax →
    code.toNat ∉ [0x0000, 0x0003, 0x0005, 0x0007, 0x000D, 0x000E, 0x0010] →
    let size := BitVec.ofNat 16 (2 + data.length)
    let done : ExecResult → List Output → Host.Outcome State Fault Refusal := fun r event => .next
      { s with exchange := none, cmdLock := none, ret := .exec r
               io := s.io.puts ([.rx (s.timeout x.reqOp)] ++ event ++ s.delays x.reqOp r ++
                 [.result x.owner (.exec r)]) }
    let rejected : NackName → Half → Host.Outcome State Fault Refusal := fun n c =>
      done (.err (.deviceRejected n c)) [.event (.deviceRejected n c)]
    exec (.rspAck size x.reqOp x.reqId data) s = done (.ok data) [] ∧
    exec (.rspNackCrc size x.reqOp x.reqId data) s = rejected .crcMismatch 0x0003 ∧
    exec (.rspNackBadParams size x.reqOp x.reqId data) s = rejected .badParameters 0x0005 ∧
    exec (.rspNackFileNotFound size x.reqOp x.reqId data) s = rejected .fileNotFound 0x0007 ∧
    exec (.rspNackOverflow size x.reqOp x.reqId data) s = rejected .overflow 0x000E ∧
    exec (.rspNackFsLocked size x.reqOp x.reqId data) s = rejected .fileSystemLocked 0x0010 ∧
    exec (.rspNackOther size x.reqOp x.reqId code data) s = rejected .other code) ∧
  (∀ (s : State) (size op id status : Half) (data : List Byte),
    (∀ x, s.exchange = some x → x.phase.receives = false) →
    exec (replyClass size op id status data) s = .next
      { s with ret := .none
               io := { s.io with
                 recvQ := s.io.recvQ ++ [.data (replyBytes s.cap.magicD2H size op id status data)] } })

/-- A matching not-ready reply (R132): while repeats are left the same frame is sent again with the same id and the exchange
waits on; after the last one the error is the result. -/
def Obligations.RspNotReady : Prop :=
  ∀ (s : State) (x : Exchange) (now : Micros) (data : List Byte), s.exchange = some x → x.phase = .reply →
    s.io.recvQ = [] → sendDraw s.io = some .ok → 10 + data.length ≤ s.cap.maxPkt.toNat → 2 + data.length ≤ s.cfg.bodyMax →
    ClockSteady s.io now →
    let t := s.timeout x.reqOp
    0 < t.toNat → now.toNat + t.toNat < 18446744073709551616 →
    let size := BitVec.ofNat 16 (2 + data.length)
    (x.nrCnt.toNat < s.cfg.notReadyRetries → exec (.rspNackNotReady size x.reqOp x.reqId data) s = .next
      { s with ret := .waiting
               exchange := some { x with nrCnt := x.nrCnt + 1, deadline := now + t.setWidth 64, xrCnt := 0
                                         rxBuf := replyBytes s.cap.magicD2H size x.reqOp x.reqId 0x000D data
                                         body := halfBytes 0x000D ++ data, bodyLen := size, phase := .reply }
               io := { (s.io.reads now 2).puts [.rx t, .event .deviceNotReady, .delay s.cfg.notReadyBackoffUs,
                         .tx x.reqFrame t] with sendQ := s.io.sendQ.tail } }) ∧
    (s.cfg.notReadyRetries ≤ x.nrCnt.toNat → exec (.rspNackNotReady size x.reqOp x.reqId data) s = .next
      { s with exchange := none, cmdLock := none, ret := .exec (.err .deviceNotReady)
               io := s.io.puts [.rx t, .event .deviceNotReady, .result x.owner (.exec (.err .deviceNotReady))] })

/-- What else an exchange in flight can receive (R126, R128, R130): a failed receive is repeated within the bound and is the
error at it; a chunk without the magic is discarded and the deadline tested; a continuation chunk grows the body, and
completes it; what `BODY` holds beyond `BODY_MAX` bytes is free (log entry 39, DESIGN CHOICE). And one that waited for a clock
or a send goes on from there (R18; that it waits in State is the model's form, log entries 8, 10). -/
def Obligations.ExchangeAnswers : Prop :=
  ∀ (s : State) (x : Exchange), s.exchange = some x → s.io.recvQ = [] →
    let t := s.timeout x.reqOp
    let waits : Exchange → Io → Host.Outcome State Fault Refusal := fun y io => .next
      { s with ret := .waiting, exchange := some y, io := io }
    let ends : ExecResult → Io → Host.Outcome State Fault Refusal := fun r io => .next
      { s with exchange := none, cmdLock := none, ret := .exec r
               io := io.puts (s.delays x.reqOp r ++ [.result x.owner (.exec r)]) }
    (x.phase.receives = true → ∀ (a : RecvAns) (k : ErrKind) (e : Event),
      (a, k, e) ∈ [(RecvAns.timeout, ErrKind.transportTimeout, Event.transportTimeout),
        (.stall, .transportStall, .transportStall)] →
      (x.xrCnt.toNat < s.cfg.xportRetries →
        s.supply (.recv [a]) = waits { x with xrCnt := x.xrCnt + 1 } (s.io.puts [.rx t])) ∧
      (s.cfg.xportRetries ≤ x.xrCnt.toNat → s.supply (.recv [a]) = ends (.err k) (s.io.puts [.rx t, .event e]))) ∧
    (x.phase = .reply → ∀ chunk : List Byte, chunk.length ≤ s.cap.maxPkt.toNat → (∀ i, ¬ MagicAt s.cap chunk i) →
      let outs : List Output := .rx t :: (if chunk = [] then [] else [.event (.protocolMismatch .magic)])
      (∀ now, ClockSteady s.io now →
        (now < x.deadline → s.supply (.recv [.data chunk]) =
          waits { x with rxBuf := chunk, xrCnt := 0 } ((s.io.reads now 1).puts outs)) ∧
        (x.deadline ≤ now → s.supply (.recv [.data chunk]) =
          ends (.err .transportTimeout) ((s.io.reads now 1).puts (outs ++ [.event .transportTimeout])))) ∧
      (hostClock s.io = none → s.supply (.recv [.data chunk]) =
        waits { x with rxBuf := chunk, phase := .pollReply } (s.io.puts outs))) ∧
    (∀ (size : Half) (d : List Byte), x.phase = .body size → d.length ≤ s.cap.maxPkt.toNat →
      let len := x.bodyLen.toNat
      len < size.toNat →
      (∀ now, ClockSteady s.io now → now < x.deadline → len + d.length < size.toNat →
        ∃ body, (len + d.length ≤ s.cfg.bodyMax → body = x.body ++ d) ∧
          (s.cfg.bodyMax < len + d.length → body.length = s.cfg.bodyMax) ∧ s.supply (.recv [.data d]) =
            waits { x with body := body, bodyLen := BitVec.ofNat 16 (len + d.length), rxBuf := d, xrCnt := 0 }
              ((s.io.reads now 1).puts [.rx t])) ∧
      (∀ (status : Half) (data : List Byte), size.toNat ≤ len + d.length → size.toNat ≤ s.cfg.bodyMax →
        x.body.length = len →
        (x.body ++ d).take size.toNat = halfBytes status ++ data → status ≠ 0x000D →
        let r : ExecResult := if status = 0 then .ok data else .err (.deviceRejected (nackName status) status)
        let event := if status = 0 then [] else [Output.event (.deviceRejected (nackName status) status)]
        s.supply (.recv [.data d]) = ends r (s.io.puts (.rx t :: event)))) ∧
    (∀ now, ClockSteady s.io now →
      (x.phase = .pollReply → now < x.deadline →
        s.resumeExchange = waits { x with xrCnt := 0, phase := .reply } (s.io.reads now 1)) ∧
      (∀ size : Half, x.phase = .pollBody size → now < x.deadline → x.bodyLen < size →
        s.resumeExchange = waits { x with xrCnt := 0, phase := .body size } (s.io.reads now 1)) ∧
      (∀ bytes, x.phase = .send bytes → now < x.deadline → sendDraw s.io = some .ok →
        s.resumeExchange = waits { x with xrCnt := 0, phase := .reply }
          { (s.io.reads now 1).puts [.tx bytes t] with sendQ := s.io.sendQ.tail }) ∧
      (x.phase = .start → 0 < t.toNat → now.toNat + t.toNat < 18446744073709551616 → sendDraw s.io = some .ok →
        s.resumeExchange = waits { x with deadline := now + t.setWidth 64, xrCnt := 0, phase := .reply }
          { (s.io.reads now 2).puts [.tx x.reqFrame t] with sendQ := s.io.sendQ.tail }))

/-! ### Locks and waits -/

/-- A host operation or a chunk of a stream whose lock is held waits (R72, R75), and so does all that a reader agent would
execute while its operation is in flight (R281); that it is kept in `held`, a packet as its bytes, is the model's form (log
entries 12, 32). -/
def Obligations.LocksWait : Prop :=
  ∀ (s : State) (sid : Nat) (st : Stream), s.streams[sid]? = some st →
    let held : Instr → Instr → Prop := fun i later =>
      exec i s = .next { s with held := s.held ++ [later], ret := .waiting }
    (st.lock ≠ none → ∀ (c : StreamConfig) (cal : CalRecord) (mn mx : Half) (which : TableSel) (idx : Nat) (a : Agent)
        (bytes : List Byte),
      (codecOutOfDomain s.cfg c.codec = false → held (.prConfigure .host sid c) (.prConfigure .host sid c)) ∧
      (∀ i ∈ [Instr.prArm .host sid, .prStop .host sid, .bdCalibrate .host sid cal mn mx,
        .bdReadtable .host sid which idx], held i i) ∧
      (agentExists s.cfg a = true → held (.bdUnpack a sid bytes) (.bdUnpack a sid bytes))) ∧
    (st.lock ≠ none ∨ st.job ≠ none → ∀ (bytes : List Byte) (type seq size : Half) (ts : Tick),
      let whole : Half → Instr := fun type => .prChunk sid (headerBytes s.cap.magicD2H type seq size ts)
      held (.prChunk sid bytes) (.prChunk sid bytes) ∧ held (.pktSof sid seq size ts) (whole st.conf.typeSof) ∧
      held (.pktEof sid seq size ts) (whole st.conf.typeEof) ∧ held (.pktData sid type seq size ts) (whole type)) ∧
    (st.job ≠ none → ∀ (bytes : List Byte) (pos : Nat) (tick : Tick), pos < bytes.length →
      ∀ i ∈ [Instr.csTohost (.rd sid) sid tick, .csHostonly (.rd sid) sid, .csEstablish ⟨sid, tick⟩, .csInit sid tick,
        .csResync sid tick, .prHdr sid bytes pos, .prPktstart sid, .prTime sid], held i i)

/-- Where a conversion waits (R18, R72, R74, R212): before a `CLK_LOCK` that is held, or withheld (log entry 12); inside it,
which its reader agent then holds, for the reference's clock read; or at a later clock read. A zero tick never comes to
the lock (R211). Each goes on from there, one whose reference a `CT.CONNECT` or `CT.DISCONNECT` has taken away meanwhile with
`REF_TICK` and `REF_HOST` as they stand (log entry 37, DEDUCED), and with `SY_FIRST` as whoever came in between left it (log
entries 37, and 41, DESIGN CHOICE); a packet's chunk waits with its conversion, under its
stream's lock, and goes on with its rest. That it waits in the stream's record is the model's form (log entry 10), that a tick
is what a counter of `TICK_BITS` bits shows its choice, as is what an id is where `SEQ_BITS` is not 16 (log entry 38, DESIGN
CHOICE), and that `CS.INIT` started on its own waits and goes on where `REF_VALID` is 0 too (log entry 35, DESIGN CHOICE). -/
def Obligations.ConversionWaits : Prop :=
  ∀ (s : State) (sid : Nat) (st : Stream), s.streams[sid]? = some st →
    let rd := Agent.rd sid
    let parked : TimeOp → TimeStage → Option Agent → State := fun op stage a =>
      s.put sid { st with job := some ⟨⟨op, stage⟩, .asked a⟩ } s.io .waiting
    let first (op : TimeOp) (stage : TimeStage) (a : Option Agent) : State :=
      (parked op stage a).edit sid (fun r => { r with syFirst := false }) .waiting
    let idle := s.put sid { st with job := none } s.io s.ret
    let restart : Instr → Host.Outcome State Fault Refusal := fun i =>
      andThen (exec i { s.put sid { st with job := none, syFirst := true } s.io s.ret with ref := { s.ref with valid := true } })
        fun t => .next { t.edit sid (fun r => { r with syFirst := st.syFirst }) t.ret with ref := s.ref }
    (st.job = none → ∀ tick : Tick,
      let c := counterTick s.cfg tick
      (s.clkLock ≠ none ∨ s.io.grantLocks = false →
        exec (.csEstablish ⟨sid, tick⟩) s = .next (parked (.establish c) .lock none) ∧
        (s.ref.valid = false →
          exec (.csHostonly rd sid) s = .next (parked .hostonly .lock (some rd)) ∧
          (c ≠ 0 → exec (.csTohost rd sid tick) s = .next (parked (.tohost c) .lock (some rd))))) ∧
      (s.clkLock = none → s.io.grantLocks = true → s.ref.valid = false → hostClock s.io = none →
        let locked : State → Host.Outcome State Fault Refusal := fun t => .next { t with clkLock := some rd }
        exec (.csEstablish ⟨sid, tick⟩) s = locked (parked (.establish c) .reference none) ∧
        exec (.csHostonly rd sid) s = locked (parked .hostonly .reference (some rd)) ∧
        (c ≠ 0 → exec (.csTohost rd sid tick) s = locked (parked (.tohost c) .reference (some rd)))) ∧
      (s.ref.valid = true → hostClock s.io = none →
        exec (.csHostonly rd sid) s = .next (parked .hostonly .clock (some rd)) ∧
        (st.syFirst = true → exec (.csTohost rd sid tick) s = .next (first (.tohost c) .clock (some rd)))) ∧
      (hostClock s.io = none → exec (.csInit sid tick) s = .next (first (.init c) .clock none))) ∧
    (∀ tick : Tick, ∀ p ∈ [(TimeOp.tohost (counterTick s.cfg tick), some rd, Instr.csTohost rd sid tick),
        (.hostonly, some rd, .csHostonly rd sid)],
      (st.job = some ⟨⟨p.1, .lock⟩, .asked p.2.1⟩ → s.clkLock = none → s.io.grantLocks = true →
        s.ref.valid = true ∨ p.1 ≠ .tohost 0 → s.resumeReader sid = exec p.2.2 idle) ∧
      (∀ now io, st.job = some ⟨⟨p.1, .reference⟩, .asked p.2.1⟩ → s.ref.valid = false →
        hostClock s.io = some (now, io) →
        s.resumeReader sid = exec p.2.2 { idle with io := io, clkLock := none, ref := ⟨true, p.1.tick, now⟩ }) ∧
      (st.job = some ⟨⟨p.1, .clock⟩, .asked p.2.1⟩ → hostClock s.io ≠ none → s.resumeReader sid = restart p.2.2)) ∧
    (∀ tick : Tick,
      let c := counterTick s.cfg tick
      (st.job = some ⟨⟨.establish c, .lock⟩, .asked none⟩ →
        s.resumeReader sid = exec (.csEstablish ⟨sid, tick⟩) idle) ∧
      (∀ now io, st.job = some ⟨⟨.establish c, .reference⟩, .asked none⟩ → s.ref.valid = false →
        hostClock s.io = some (now, io) → s.resumeReader sid = .next
          { idle with io := io, clkLock := none, ref := ⟨true, c, now⟩, ret := .none }) ∧
      (st.job = some ⟨⟨.init c, .clock⟩, .asked none⟩ → hostClock s.io ≠ none →
        s.resumeReader sid = restart (.csInit sid tick))) ∧
    (∀ (w : TimeWait) (rest : List Byte) (magic type seq size : Half) (ts : Tick) (ref : ClockRef)
        (clk : Option Agent) (st' : Stream) (io : Io) (us : Micros),
      st.job = some ⟨w, .parser (.chunk rest)⟩ → st.lock = some rd →
      st.hdr = tableCells 0 (headerBytes magic type seq size ts) →
      (s.put sid { st with job := some ⟨w, .asked (some rd)⟩ } s.io s.ret).resumeReader sid = .next
        { s.put sid st' (io.puts [.result rd (.time us)]) (.time us) with ref := ref, clkLock := clk } →
      let timed := { s.put sid { st' with pktTime := us } (io.puts [.diagTime sid ts us]) .none with
        ref := ref, clkLock := clk }
      s.resumeReader sid = andThen
        (if size = 0 then exec (.prPktend sid) timed
          else .next (timed.edit sid (fun r => { r with dataLeft := size, dataOff := 0, pstate := .readingData }) .none))
        fun u => exec (.prChunk sid rest) (u.edit sid (fun r => { r with lock := none }) .none)) ∧
    (∀ (type seq size : Half) (ts : Tick) (rest : List Byte), st.job = none → st.lock = none →
      st.pstate = .seekingMagic → st.magicHalf = false → st.hdr = [] → type ≠ st.conf.typeSof →
      st.conf.tsMode = .hostOnly → s.ref.valid = true → hostClock s.io = none →
      let next := BitVec.ofNat 16 ((st.lastSeq.toNat + 1) % 2 ^ s.cfg.seqBits)
      let loss := decide (seq ≠ 0) && decide (seq ≠ next)
      exec (.prChunk sid (headerBytes s.cap.magicD2H type seq size ts ++ rest)) s = .next (s.put sid
        { st with
          lock := some rd, job := some ⟨⟨.hostonly, .clock⟩, .parser (.chunk rest)⟩, pstate := .readingHeader
          hdr := tableCells 0 (headerBytes s.cap.magicD2H type seq size ts), hdrCnt := 12, lastSeq := seq
          lossMark := st.lossMark || loss, lossLast := loss }
        (s.io.puts (.diagPacket sid type seq size ts ::
          (if loss then [.event (.packetLoss sid next seq)] else []))) .waiting))

/-! ### Packet reassembler: host operations -/

/-- `PR.CONFIGURE` (R162): the record is taken whole where it is legal and the stream is not armed; refused, nothing
changes. -/
def Obligations.PrConfigure : Prop :=
  ∀ (s : State) (sid : Nat) (st : Stream) (c : StreamConfig), s.streams[sid]? = some st → st.lock = none →
    codecOutOfDomain s.cfg c.codec = false →
    let ok := st.pstate = .awaitingConfiguration ∧ c.typeSof ≠ c.typeEof ∧ c.codec ≠ .xform ∧
      1 ≤ c.pixBytes.toNat ∧ c.pixBytes.toNat ≤ 4 ∧ c.outCap.toNat ≤ s.cfg.outCapMax ∧
      (c.cropEn = false ∨ (c.cropX.toNat + c.cropW.toNat ≤ c.xRes.toNat ∧ c.cropY.toNat + c.cropH.toNat ≤ c.yRes.toNat))
    (ok → exec (.prConfigure .host sid c) s = .next
      (s.put sid { st with conf := c, cfgValid := true } (s.io.puts [.result .host .ok]) .ok)) ∧
    (¬ ok → exec (.prConfigure .host sid c) s = .next
      (s.put sid st (s.io.puts [.result .host .refused]) .refused))

/-- `PR.ARM` (R163): every parser, loss and frame register at its start; the sink is asked for the first write slot (the
table of R296). -/
def Obligations.PrArm : Prop :=
  ∀ (s : State) (sid : Nat) (st : Stream), s.streams[sid]? = some st → st.lock = none →
    let ok := st.pstate = .awaitingConfiguration ∧ s.capValid = true ∧ st.cfgValid = true ∧
      (st.conf.codec = .pass ∨ st.conf.lutEn = false ∨ st.calValid = true)
    (ok → exec (.prArm .host sid) s = .next (s.put sid
      { st.frameless with
        pstate := if st.conf.ignoreBytes = 0 then .seekingMagic else .ignoringGarbage
        ignLeft := st.conf.ignoreBytes, magicHalf := false, hdrCnt := 0, hdr := [], dataLeft := 0, dataOff := 0
        lastSeq := 0, frameId := 0, pktTime := 0, syFirst := true }
      (s.io.puts [.acquire sid, .result .host .ok]) .ok)) ∧
    (¬ ok → exec (.prArm .host sid) s = .next (s.put sid st (s.io.puts [.result .host .refused]) .refused))

/-- `PR.STOP` (R164) is legal in every parser state: the frame in progress is discarded, nothing is published; the
configuration, the tables, `LAST_SEQ` and `FRAME_ID` keep their values. -/
def Obligations.PrStop : Prop :=
  ∀ (s : State) (sid : Nat) (st : Stream), s.streams[sid]? = some st → st.lock = none →
    exec (.prStop .host sid) s = .next (s.put sid
      { st.frameless with
        pstate := .awaitingConfiguration, ignLeft := 0, magicHalf := false, hdrCnt := 0, hdr := [], dataLeft := 0
        dataOff := 0, syFirst := true }
      (s.io.puts [.result .host .ok]) .ok)

/-! ### Packet reassembler: the parser -/

/-- In a sound state a chunk, or a packet header, of any bytes runs to a sound state; on a stream that takes its times from
the device clock the one other outcome is a value beyond 64 bits (R170, R174, R177, R222). -/
def Obligations.PrChunkRuns : Prop :=
  ∀ (s : State) (sid : Nat) (st : Stream) (bytes : List Byte) (type seq size : Half) (ts : Tick),
    Inv s → s.streams[sid]? = some st →
    ∀ i ∈ [Instr.prChunk sid bytes, .pktSof sid seq size ts, .pktEof sid seq size ts, .pktData sid type seq size ts],
      (st.conf.tsMode = .hostOnly → ∃ t, exec i s = .next t ∧ Inv t) ∧
      (st.conf.tsMode = .device → (∃ t, exec i s = .next t ∧ Inv t) ∨ exec i s = .fault .outOf64Bits)

/-- `PR.DISCARD` (R171), `PR.IGNORE` (R172) and `PR.SEEK` (R173) on the bytes of a chunk from a position on. That each
runs whatever `PSTATE` is, where its rule gives it for one state, is the model's choice (log entry 35, DESIGN CHOICE). -/
def Obligations.PrScan : Prop :=
  ∀ (s : State) (sid : Nat) (st : Stream) (bytes : List Byte) (pos : Nat) (b : Byte), s.streams[sid]? = some st →
    bytes[pos]? = some b →
    let done : Instr → Stream → Nat → Prop := fun i st' p => exec i s = .next (s.put sid st' s.io (.pos p))
    done (.prDiscard sid bytes pos) st bytes.length ∧
    (bytes.length - pos < st.ignLeft.toNat → done (.prIgnore sid bytes pos)
      { st with ignLeft := st.ignLeft - BitVec.ofNat 32 (bytes.length - pos) } bytes.length) ∧
    (st.ignLeft.toNat ≤ bytes.length - pos → done (.prIgnore sid bytes pos)
      { st with ignLeft := 0, pstate := .seekingMagic } (pos + st.ignLeft.toNat)) ∧
    (st.magicHalf = true → b = hiByte s.cap.magicD2H →
      ∃ hdr, StoresAt st.hdr hdr 0 (halfBytes s.cap.magicD2H) ∧ done (.prSeek sid bytes pos)
        { st with hdr := hdr, hdrCnt := 2, magicHalf := false, pstate := .readingHeader } (pos + 1)) ∧
    (st.magicHalf = false ∨ b ≠ hiByte s.cap.magicD2H → done (.prSeek sid bytes pos)
      { st with magicHalf := decide (b = loByte s.cap.magicD2H) } (pos + 1))

/-- `PR.HDR` (R174): the header bytes in the chunk are stored; with the twelfth the packet starts, and ends at once where
its size is 0. (Where the packet's time has to wait, `ConversionWaits` and `PrTime` say how.) That it runs whatever `PSTATE`
is, where its rule gives it for `ReadingHeader`, is the model's choice (log entry 35, DESIGN CHOICE). -/
def Obligations.PrHdr : Prop :=
  ∀ (s : State) (sid : Nat) (st : Stream) (bytes : List Byte) (pos : Nat), s.streams[sid]? = some st →
    pos < bytes.length → st.hdrCnt.toNat < 12 → st.job = none →
    let c := st.hdrCnt.toNat
    (c + (bytes.length - pos) < 12 → ∃ hdr, StoresAt st.hdr hdr c (bytes.drop pos) ∧
      exec (.prHdr sid bytes pos) s = .next (s.put sid
        { st with hdr := hdr, hdrCnt := BitVec.ofNat 4 (c + (bytes.length - pos)) } s.io (.pos bytes.length))) ∧
    (∀ (had : List Byte) (magic type seq size : Half) (ts : Tick), Unhindered s → 12 ≤ c + (bytes.length - pos) →
      st.hdr = tableCells 0 had → had.length = c →
      had ++ (bytes.drop pos).take (12 - c) = headerBytes magic type seq size ts →
      let full := { st with hdr := tableCells 0 (headerBytes magic type seq size ts), hdrCnt := 12 }
      exec (.prHdr sid bytes pos) s =
        andThen (exec (.prPktstart sid) (s.put sid full s.io .none)) fun t =>
          if size = 0 then andThen (exec (.prPktend sid) t) fun u => .next (u.returns (.pos (pos + (12 - c))))
          else .next (t.edit sid (fun st' => { st' with dataLeft := size, dataOff := 0, pstate := .readingData })
            (.pos (pos + (12 - c)))))

/-- `PR.DATA` (R175) and `PR.PKTEND` (R176): a piece is handed on whole, and the last one ends the packet; the end of a
packet that ends a frame is `PR.EOF` first. A piece inside a packet is written out for a stream that is dropping and for one
that passes its payload through with room for it (R183). That `PR.DATA` runs whatever `PSTATE` is and with `DATA_LEFT = 0` too,
where its rule gives it for `ReadingData` and a piece that is not empty, is the model's choice (log entry 35, DESIGN CHOICE). -/
def Obligations.PrData : Prop :=
  ∀ (s : State) (sid : Nat) (st : Stream), s.streams[sid]? = some st →
    (∀ (bytes : List Byte) (pos : Nat), pos < bytes.length →
      let k := min (bytes.length - pos) st.dataLeft.toNat
      exec (.prData sid bytes pos) s =
        andThen (exec (.prPiece sid ((bytes.drop pos).take k) st.dataOff) s) fun t =>
          let u := t.edit sid (fun st' => { st' with
            dataOff := st.dataOff + BitVec.ofNat 16 k, dataLeft := st.dataLeft - BitVec.ofNat 16 k }) (.pos (pos + k))
          if st.dataLeft.toNat ≤ bytes.length - pos then
            andThen (exec (.prPktend sid) u) fun w => .next (w.returns (.pos (pos + k)))
          else .next u) ∧
    (∀ (magic type seq size : Half) (ts : Tick), st.hdr = tableCells 0 (headerBytes magic type seq size ts) →
      (type ≠ st.conf.typeEof → exec (.prPktend sid) s = .next (s.put sid st.seeking s.io .none)) ∧
      (type = st.conf.typeEof → exec (.prPktend sid) s =
        andThen (exec (.prEof sid) s) fun t => .next (t.edit sid Stream.seeking .none))) ∧
    (∀ (bytes : List Byte) (pos : Nat), pos < bytes.length → bytes.length - pos < st.dataLeft.toNat →
      let k := bytes.length - pos
      let moved := { st with
        dataOff := st.dataOff + BitVec.ofNat 16 k, dataLeft := st.dataLeft - BitVec.ofNat 16 k }
      (st.drop = true → exec (.prData sid bytes pos) s = .next (s.put sid moved s.io (.pos bytes.length))) ∧
      (st.drop = false → st.conf.codec = .pass → st.outLen.toNat + k ≤ st.conf.outCap.toNat →
        ∃ out, StoresAt st.out out st.outLen.toNat (bytes.drop pos) ∧ exec (.prData sid bytes pos) s = .next (s.put sid
          { moved with out := out, outLen := st.outLen + BitVec.ofNat 32 k } s.io (.pos bytes.length))))

/-! ### Packet reassembler: packets -/

/-- `PR.PKTSTART` (R177, R179): the diagnostic record, the loss check, the start of a frame, the loss flags, the time, in
this order; a start-of-frame whose field holds padding has no time. A start-of-frame with padding that fits, and another
packet timed by the host clock, are written out. (Where the time has to wait, `PR.TIME` waits for both.) That ids are compared
and stored with all 16 bits where `SEQ_BITS` is not 16 is log entry 38 (DESIGN CHOICE). -/
def Obligations.PrPktstart : Prop :=
  ∀ (s : State) (sid : Nat) (st : Stream) (magic type seq size : Half) (ts : Tick), s.streams[sid]? = some st →
    st.hdr = tableCells 0 (headerBytes magic type seq size ts) → st.job = none →
    let next := BitVec.ofNat 16 ((st.lastSeq.toNat + 1) % 2 ^ s.cfg.seqBits)
    let loss := decide (seq ≠ 0) && decide (seq ≠ next)
    let isSof := decide (type = st.conf.typeSof)
    let lossEvent := if loss then [Output.event (.packetLoss sid next seq)] else []
    let pad := (ts.extractLsb' 16 16).toNat * sampleBytes s.cfg st.conf
    (exec (.prPktstart sid) s =
      andThen (exec (.prLosschk sid) { s with io := s.io.puts [.diagPacket sid type seq size ts] }) fun s1 =>
        andThen (if isSof then exec (.prSof sid) s1 else .next s1) fun s2 =>
          let s3 := s2.edit sid (fun r => { r with
            lossFirst := if isSof then loss else r.lossFirst, lossMark := r.lossMark || loss, lossLast := loss }) .none
          if isSof && s.cap.sofTsPad then .next s3 else exec (.prTime sid) s3) ∧
    (isSof = true → s.cap.sofTsPad = true → pad ≤ st.conf.outCap.toNat →
      exec (.prPktstart sid) s = .next (s.put sid
        { st.frameless with
          lastSeq := seq, lossFirst := loss, lossMark := loss, lossLast := loss, trailPad := ts.extractLsb' 0 16
          out := tableCells 0 (fillerBytes s.cfg (sampleBytes s.cfg st.conf) (ts.extractLsb' 16 16).toNat)
          outLen := BitVec.ofNat 32 pad }
        (s.io.puts ([.diagPacket sid type seq size ts] ++ lossEvent)) .none)) ∧
    (∀ now io, isSof = false → st.conf.tsMode = .hostOnly → s.ref.valid = true → s.ref.host ≤ s.io.clock.last →
      hostClock s.io = some (now, io) →
      let time := now - s.ref.host
      exec (.prPktstart sid) s = .next (s.put sid
        { st with lastSeq := seq, lossMark := st.lossMark || loss, lossLast := loss, pktTime := time }
        { io with
          trace := s.io.trace ++ [.diagPacket sid type seq size ts] ++ lossEvent ++ [.diagTime sid ts time] } .none))

/-- A packet header arriving whole at a parser that seeks (R91, R173, R174, R177): a start-of-frame with padding that
fits, and a packet of any class timed by the host clock, are written out; in every case the header is what `PR.HDR` makes
of it once its magic is found. A parser that has the magic's first half already is included, but for a magic of two equal
bytes, where it finds the magic one byte earlier (R173). That ids are compared and stored with all 16 bits where `SEQ_BITS`
is not 16 is log entry 38 (DESIGN CHOICE). -/
def Obligations.PktClasses : Prop :=
  ∀ (s : State) (sid : Nat) (st : Stream) (seq size : Half) (ts : Tick), s.streams[sid]? = some st →
    st.lock = none → st.job = none → st.pstate = .seekingMagic →
    st.magicHalf = false ∨ loByte s.cap.magicD2H ≠ hiByte s.cap.magicD2H → st.hdr = [] →
    let next := BitVec.ofNat 16 ((st.lastSeq.toNat + 1) % 2 ^ s.cfg.seqBits)
    let loss := decide (seq ≠ 0) && decide (seq ≠ next)
    let lossEvent := if loss then [Output.event (.packetLoss sid next seq)] else []
    let read : Half → Stream → Stream := fun type r => { r with
      hdr := tableCells 0 (headerBytes s.cap.magicD2H type seq size ts), hdrCnt := 12, dataLeft := size, dataOff := 0
      magicHalf := false, pstate := .readingData, lastSeq := seq, lossMark := r.lossMark || loss, lossLast := loss }
    let timed : Micros → Io → Half → Stream → State := fun time io type r =>
      s.put sid { read type r with pktTime := time } { io with
        trace := s.io.trace ++ [.diagPacket sid type seq size ts] ++ lossEvent ++ [.diagTime sid ts time] } .none
    let pad := (ts.extractLsb' 16 16).toNat * sampleBytes s.cfg st.conf
    (s.cap.sofTsPad = true → size ≠ 0 → pad ≤ st.conf.outCap.toNat →
      exec (.pktSof sid seq size ts) s = .next (s.put sid
        { read st.conf.typeSof st.frameless with
          out := tableCells 0 (fillerBytes s.cfg (sampleBytes s.cfg st.conf) (ts.extractLsb' 16 16).toNat)
          outLen := BitVec.ofNat 32 pad, trailPad := ts.extractLsb' 0 16, lossFirst := loss }
        (s.io.puts ([.diagPacket sid st.conf.typeSof seq size ts] ++ lossEvent)) .none)) ∧
    (∀ now io, st.conf.tsMode = .hostOnly → s.ref.valid = true → s.ref.host ≤ s.io.clock.last → size ≠ 0 →
      hostClock s.io = some (now, io) →
      let time := now - s.ref.host
      (s.cap.sofTsPad = false → exec (.pktSof sid seq size ts) s = .next
        (timed time io st.conf.typeSof { st.frameless with lossFirst := loss })) ∧
      (st.conf.typeEof ≠ st.conf.typeSof → exec (.pktEof sid seq size ts) s = .next (timed time io st.conf.typeEof st)) ∧
      (∀ type, type ≠ st.conf.typeSof → exec (.pktData sid type seq size ts) s = .next (timed time io type st))) ∧
    (Unhindered s → ∀ type, ∀ i ∈ (if type = st.conf.typeSof then [Instr.pktSof sid seq size ts] else []) ++
        (if type = st.conf.typeEof then [Instr.pktEof sid seq size ts] else []) ++
        [Instr.pktData sid type seq size ts, .prChunk sid (headerBytes s.cap.magicD2H type seq size ts)],
      exec i s = andThen
        (exec (.prHdr sid (headerBytes s.cap.magicD2H type seq size ts) 2) (s.put sid
          { st with hdr := tableCells 0 (halfBytes s.cap.magicD2H), hdrCnt := 2, magicHalf := false
                    pstate := .readingHeader } s.io .none))
        fun t => .next (t.returns .none))

/-- `PR.LOSSCHK` (R178): the id after the last one and the id 0 signal nothing, any other id signals a loss; `LAST_SEQ`
follows the packet either way. For `SEQ_BITS` other than 16 the successor is reduced, and ids are compared and stored with all
16 bits: log entry 38 (DESIGN CHOICE). -/
def Obligations.PrLosschk : Prop :=
  ∀ (s : State) (sid : Nat) (st : Stream) (magic type seq size : Half) (ts : Tick), s.streams[sid]? = some st →
    st.hdr = tableCells 0 (headerBytes magic type seq size ts) →
    let next := BitVec.ofNat 16 ((st.lastSeq.toNat + 1) % 2 ^ s.cfg.seqBits)
    (seq = 0 ∨ seq = next →
      exec (.prLosschk sid) s = .next (s.put sid { st with lastSeq := seq } s.io (.flag false))) ∧
    (seq ≠ 0 → seq ≠ next →
      exec (.prLosschk sid) s = .next (s.put sid { st with lastSeq := seq }
        (s.io.puts [.event (.packetLoss sid next seq)]) (.flag true)))

/-- `PR.SOF` (R180), `PR.FRAMERESET` (R181) and `PR.OVERFLOW` (R186): the frame starts over, without an event; leading
padding is all or nothing. Without `SOF_TS_PAD` it needs no header. -/
def Obligations.PrSof : Prop :=
  ∀ (s : State) (sid : Nat) (st : Stream), s.streams[sid]? = some st →
    exec (.prFramereset sid) s = .next (s.put sid st.frameless s.io .none) ∧
    exec (.prOverflow sid) s = .next
      (s.put sid st.overflowed (s.io.puts [.event (.outputBufferOverflow sid)]) .none) ∧
    (s.cap.sofTsPad = false → exec (.prSof sid) s = .next (s.put sid st.frameless s.io .none)) ∧
    (∀ (magic type seq size : Half) (ts : Tick), st.hdr = tableCells 0 (headerBytes magic type seq size ts) →
      let lead := (ts.extractLsb' 16 16).toNat
      let opened := { st.frameless with trailPad := ts.extractLsb' 0 16 }
      (s.cap.sofTsPad = true → lead * sampleBytes s.cfg st.conf ≤ st.conf.outCap.toNat →
        exec (.prSof sid) s = .next (s.put sid
          { opened with out := tableCells 0 (fillerBytes s.cfg (sampleBytes s.cfg st.conf) lead)
                        outLen := BitVec.ofNat 32 (lead * sampleBytes s.cfg st.conf) } s.io .none)) ∧
      (s.cap.sofTsPad = true → st.conf.outCap.toNat < lead * sampleBytes s.cfg st.conf →
        exec (.prSof sid) s = .next
          (s.put sid opened.overflowed (s.io.puts [.event (.outputBufferOverflow sid)]) .none)))

/-- `PR.TIME` (R182): the packet's time is what the synchronizer answers, by `CS.HOSTONLY` or by `CS.TOHOST` of the header's
tick, and it is mirrored at `DIAG`; where the conversion waits, so does `PR.TIME`. -/
def Obligations.PrTime : Prop :=
  ∀ (s : State) (sid : Nat) (st : Stream) (magic type seq size : Half) (ts : Tick), s.streams[sid]? = some st →
    st.hdr = tableCells 0 (headerBytes magic type seq size ts) → st.job = none →
    let convert : Instr := match st.conf.tsMode with
      | .device => .csTohost (.rd sid) sid ts
      | .hostOnly => .csHostonly (.rd sid) sid
    let with' : State → ClockRef → Option Agent → Host.Outcome State Fault Refusal := fun t ref clk =>
      .next { t with ref := ref, clkLock := clk }
    (∀ (ref : ClockRef) (clk : Option Agent) (st' : Stream) (io : Io) (us : Micros),
      exec convert s = with' (s.put sid st' (io.puts [.result (.rd sid) (.time us)]) (.time us)) ref clk →
      exec (.prTime sid) s = with' (s.put sid { st' with pktTime := us } (io.puts [.diagTime sid ts us]) .none) ref
        clk) ∧
    (∀ (ref : ClockRef) (clk : Option Agent) (st' : Stream) (io : Io) (w : TimeWait),
      exec convert s = with' (s.put sid { st' with job := some ⟨w, .asked (some (.rd sid))⟩ } io .waiting) ref clk →
      exec (.prTime sid) s = with' (s.put sid { st' with job := some ⟨w, .parser .packet⟩ } io .waiting) ref clk) ∧
    (∀ e, exec convert s = .fault e → exec (.prTime sid) s = .fault e) ∧
    (∀ now io, st.conf.tsMode = .hostOnly → s.ref.valid = true → s.ref.host ≤ s.io.clock.last →
      hostClock s.io = some (now, io) →
      let us := now - s.ref.host
      exec (.prTime sid) s = .next (s.put sid { st with pktTime := us } (io.puts [.diagTime sid ts us]) .none))

/-- `PR.PIECE` (R183): a piece of a frame that is dropping is discarded; pass-through is all or nothing; the unpack codecs
take the piece through `BD.FEED`. That an empty piece runs, where the rule has at least one byte, is the model's choice (log
entries 28 and 35, DESIGN CHOICE). -/
def Obligations.PrPiece : Prop :=
  ∀ (s : State) (sid : Nat) (st : Stream) (d : List Byte) (off : Half), s.streams[sid]? = some st →
    (st.drop = true → exec (.prPiece sid d off) s = .next (s.put sid st s.io .none)) ∧
    (st.drop = false → st.conf.codec = .pass →
      (st.outLen.toNat + d.length ≤ st.conf.outCap.toNat →
        ∃ out, StoresAt st.out out st.outLen.toNat d ∧ exec (.prPiece sid d off) s = .next (s.put sid
          { st with out := out, outLen := st.outLen + BitVec.ofNat 32 d.length } s.io .none)) ∧
      (st.conf.outCap.toNat < st.outLen.toNat + d.length →
        exec (.prPiece sid d off) s = .next
          (s.put sid st.overflowed (s.io.puts [.event (.outputBufferOverflow sid)]) .none))) ∧
    (st.drop = false → st.conf.codec = .unpack11 ∨ st.conf.codec = .unpack12 →
      exec (.prPiece sid d off) s = exec (.bdFeed sid d) s)

/-- `PR.PAD` (R185): filler samples at the cursor, all or nothing; nothing on a frame that is dropping. A filler sample is
`NO_DATA` in the bytes of one sample, low byte first; one that they do not hold has bytes that no rule states (a free value:
log entry 34, DESIGN CHOICE). -/
def Obligations.PrPad : Prop :=
  ∀ (s : State) (sid : Nat) (st : Stream) (k : Half), s.streams[sid]? = some st →
    let n := sampleBytes s.cfg st.conf
    let filler := fillerBytes s.cfg n k.toNat
    let m := k.toNat * n
    (fillerSample s.cfg n).length = n ∧ (s.cfg.noData < 256 ^ n → fillerSample s.cfg n = leBytes n s.cfg.noData) ∧
    (st.drop = true ∨ k = 0 → exec (.prPad sid k) s = .next (s.put sid st s.io .none)) ∧
    (st.drop = false → k ≠ 0 → st.outLen.toNat + m ≤ st.conf.outCap.toNat →
      ∃ out, StoresAt st.out out st.outLen.toNat filler ∧ exec (.prPad sid k) s = .next (s.put sid
        { st with out := out, outLen := st.outLen + BitVec.ofNat 32 m } s.io .none)) ∧
    (st.drop = false → k ≠ 0 → st.conf.outCap.toNat < st.outLen.toNat + m →
      exec (.prPad sid k) s = .next
        (s.put sid st.overflowed (s.io.puts [.event (.outputBufferOverflow sid)]) .none))

/-- `PR.EOF` (R184) and `PR.PUBLISH` (R187): trailing padding, the two corruption checks, the next frame id, the frame
committed and reported with its loss bits, a fresh write slot, the frame registers at their start. -/
def Obligations.PrEof : Prop :=
  ∀ (s : State) (sid : Nat) (st : Stream) (data : List Byte), s.streams[sid]? = some st →
    st.out = tableCells 0 data → st.outLen.toNat = data.length →
    let publish : Word → List Byte → Bool → List Output := fun id bytes corrupt =>
      [.commit sid ⟨id, st.pktTime, BitVec.ofNat 32 bytes.length, bytes, corrupt, st.lossMark, st.lossFirst,
        st.lossLast⟩, .fps sid id st.pktTime, .acquire sid]
    let id := st.frameId + 1
    let ends : List Output → List Byte → Bool → Prop := fun before bytes corrupt =>
      exec (.prEof sid) s = .next (s.put sid { st.frameless with frameId := id }
        (s.io.puts (before ++ (if corrupt then [.event (.frameCorrupted sid)] else []) ++ publish id bytes corrupt))
        .none)
    let m := st.trailPad.toNat * sampleBytes s.cfg st.conf
    let bad : Nat → Bool := fun n => st.corrupt || decide (st.contLen ≠ 0) || decide (n ≠ expectedBytes s.cfg st.conf)
    exec (.prPublish sid) s = .next
      (s.put sid { st with out := [] } (s.io.puts (publish st.frameId data st.corrupt)) .none) ∧
    (st.drop = true → ends [] data (bad data.length)) ∧
    (st.drop = false → st.trailPad = 0 ∨ data.length + m ≤ st.conf.outCap.toNat →
      ends [] (data ++ fillerBytes s.cfg (sampleBytes s.cfg st.conf) st.trailPad.toNat) (bad (data.length + m))) ∧
    (st.drop = false → st.trailPad ≠ 0 → st.conf.outCap.toNat < data.length + m →
      ends [.event (.outputBufferOverflow sid)] [] true)

/-! ### Clock synchronizer -/

/-- `CS.ESTABLISH` (R212) and `CS.HOSTONLY` (R219): the reference is written once, with a clock read, under `CLK_LOCK`;
`CS.HOSTONLY` answers the host time since the reference and writes no register of its stream. That the reference is what a
counter of `TICK_BITS` bits shows is the model's choice (log entry 38, DESIGN CHOICE). -/
def Obligations.CsHostonly : Prop :=
  ∀ (s : State) (sid : Nat) (st : Stream) (tick : Tick) (now : Micros) (io : Io), s.streams[sid]? = some st →
    st.job = none → hostClock s.io = some (now, io) →
    let answers : ClockRef → Io → Micros → Prop := fun ref io us =>
      exec (.csHostonly (.rd sid) sid) s = .next
        { s.put sid st (io.puts [.result (.rd sid) (.time us)]) (.time us) with ref := ref }
    (s.ref.valid = true →
      (s.clkLock = none → s.io.grantLocks = true →
        exec (.csEstablish ⟨sid, tick⟩) s = .next (s.put sid st s.io .none)) ∧
      (s.ref.host ≤ s.io.clock.last → answers s.ref io (now - s.ref.host))) ∧
    (s.ref.valid = false → s.clkLock = none → s.io.grantLocks = true →
      exec (.csEstablish ⟨sid, tick⟩) s = .next { s.put sid st io .none with
        ref := ⟨true, counterTick s.cfg tick, now⟩ } ∧
      (∀ later io', hostClock io = some (later, io') → answers ⟨true, 0, now⟩ io' (later - now)))

/-- `CS.INIT` (R213, R214, R215) and `CS.RESYNC` (R218), for a counter of `TICK_BITS` bits (log entry 38) and within the width
bound of R222. That they run where `REF_VALID` is 0 too, on what the reference then holds, is the model's choice (log entry 35,
DESIGN CHOICE). -/
def Obligations.CsInit : Prop :=
  ∀ (s : State) (sid : Nat) (st : Stream) (operand : Tick) (now : Micros) (io : Io), s.streams[sid]? = some st →
    st.job = none → hostClock s.io = some (now, io) → s.ref.host ≤ s.io.clock.last → cfgLegal s.cfg = true →
    let span : Nat := 2 ^ s.cfg.tickBits
    s.ref.tick.toNat < span →
    (now.toNat - s.ref.host.toNat) * s.cfg.freq + 2 * span < 18446744073709551616 →
    let tick := counterTick s.cfg operand
    let e : Int := ((now.toNat : Int) - s.ref.host.toNat) * s.cfg.freq
    let w0 : Int := e / span
    let est : Int := w0 * span + tick.toNat - s.ref.tick.toNat
    let half : Int := (span : Int) / 2
    let w : Int := if est < e - half then w0 + 1 else if e + half < est then w0 - 1 else w0
    let clamped := w < 0 ∨ (w = 0 ∧ tick.toNat < s.ref.tick.toNat)
    let total : Nat := if clamped then 0 else w.toNat * span
    let t : Tick := if clamped then s.ref.tick else tick
    let st' := { st with
      syLref := s.ref.tick, syTotal := BitVec.ofNat 64 total, syLastTick := t, syFirst := false }
    let us := BitVec.ofNat 64 ((total + t.toNat - s.ref.tick.toNat) / s.cfg.freq)
    exec (.csInit sid operand) s = .next (s.put sid st' io (.time us)) ∧
    exec (.csResync sid operand) s = .next (s.put sid st' (io.puts [.event (.clockDesync sid)]) (.time us))

/-- A first call is exact (R220, R221 (f)): where `E` ticks have passed since the reference, `tick` is what the counter shows
then, it is not below the reference's own, and the host clock agrees to within half a wrap, `CS.INIT` finds `E`. That it does
so where `REF_VALID` is 0 too is the model's choice (log entry 35, DESIGN CHOICE), and so is what a tick of a counter of other
than 32 bits is (log entry 38, DESIGN CHOICE). -/
def Obligations.CsInitExact : Prop :=
  ∀ (s : State) (sid : Nat) (st : Stream) (operand : Tick) (E : Nat) (now : Micros) (io : Io),
    s.streams[sid]? = some st → st.job = none → hostClock s.io = some (now, io) → cfgLegal s.cfg = true →
    s.ref.host ≤ s.io.clock.last → E < 9223372036854775808 →
    let span : Nat := 2 ^ s.cfg.tickBits
    let tick := counterTick s.cfg operand
    tick.toNat = (s.ref.tick.toNat + E) % span → s.ref.tick.toNat ≤ tick.toNat →
    let elapsed := (now.toNat - s.ref.host.toNat) * s.cfg.freq
    elapsed < E + span / 2 → E < elapsed + span / 2 →
    exec (.csInit sid operand) s = .next (s.put sid
      { st with
        syLref := s.ref.tick, syTotal := BitVec.ofNat 64 (s.ref.tick.toNat + E - tick.toNat), syLastTick := tick
        syFirst := false }
      io (.time (BitVec.ofNat 64 (E / s.cfg.freq))))

/-- `CS.ADVANCE` (R216, R217): the stream's tick count grows by `((tick - last - 1) mod 2^32) + 1`, so by at least 1, and the
result is the count in microseconds, the remainder dropped; for a counter of `TICK_BITS` bits `2^TICK_BITS` stands for `2^32`
(log entry 38). That it runs where `SY_FIRST` is 1 too, on what the registers then hold, is the model's choice (log entry 35,
DESIGN CHOICE). -/
def Obligations.CsAdvance : Prop :=
  ∀ (s : State) (sid : Nat) (st : Stream) (operand : Tick), s.streams[sid]? = some st → cfgLegal s.cfg = true →
    let span : Nat := 2 ^ s.cfg.tickBits
    st.syLref.toNat < span → st.syLastTick.toNat < span →
    st.syLref.toNat ≤ st.syTotal.toNat + st.syLastTick.toNat →
    let T := st.syTotal.toNat + st.syLastTick.toNat - st.syLref.toNat
    T + 2 * span ≤ 18446744073709551616 →
    let tick := counterTick s.cfg operand
    let T' := T + ((tick.toNat + (span - 1) - st.syLastTick.toNat) % span + 1)
    ∃ total : BitVec 64,
      total = (if st.syLastTick.toNat < tick.toNat then st.syTotal else st.syTotal + BitVec.ofNat 64 span) ∧
      T' = total.toNat + tick.toNat - st.syLref.toNat ∧
      exec (.csAdvance sid operand) s = .next (s.put sid { st with syTotal := total, syLastTick := tick } s.io
        (.time (BitVec.ofNat 64 (T' / s.cfg.freq))))

/-- `CS.TOHOST` (R211): a zero tick before any reference changes nothing and asks for no lock; another one establishes it; a
first call is `CS.INIT`, unchecked; a later call is `CS.ADVANCE`, and `CS.RESYNC` where the jump exceeds the tolerance. The
tick is what a counter of `TICK_BITS` bits shows (log entry 38, DESIGN CHOICE where that is not 32). -/
def Obligations.CsTohost : Prop :=
  ∀ (s : State) (sid : Nat) (st : Stream) (tick : Tick), s.streams[sid]? = some st → st.job = none →
    let c := counterTick s.cfg tick
    let answers : Stream → Io → Micros → Prop := fun st' io us =>
      exec (.csTohost (.rd sid) sid tick) s = .next
        (s.put sid { st' with syLastRes := us } (io.puts [.result (.rd sid) (.time us)]) (.time us))
    (s.ref.valid = false → c = 0 → exec (.csTohost (.rd sid) sid tick) s = .next
      (s.put sid st (s.io.puts [.result (.rd sid) (.time 0)]) (.time 0))) ∧
    (s.ref.valid = false → s.clkLock = none → s.io.grantLocks = true → hostClock s.io ≠ none → c ≠ 0 →
      exec (.csTohost (.rd sid) sid tick) s =
        andThen (exec (.csEstablish ⟨sid, tick⟩) s) (exec (.csTohost (.rd sid) sid tick))) ∧
    (∀ st' io us, s.ref.valid = true → st.syFirst = true →
      exec (.csInit sid tick) s = .next (s.put sid st' io (.time us)) → answers st' io us) ∧
    (∀ st' io us, s.ref.valid = true → st.syFirst = false →
      exec (.csAdvance sid tick) s = .next (s.put sid st' io (.time us)) →
      (((us.toNat : Int) - st.syLastRes.toNat).natAbs ≤ s.cfg.sanityTolUs → answers st' io us) ∧
      (s.cfg.sanityTolUs < ((us.toNat : Int) - st.syLastRes.toNat).natAbs → ∀ st'' io' us',
        exec (.csResync sid tick) (s.put sid st' io (.time us)) = .next (s.put sid st'' io' (.time us')) →
          answers st'' io' us')) ∧
    (∀ now, s.ref.valid = false → s.clkLock = none → s.io.grantLocks = true → c ≠ 0 → st.syFirst = true →
      ClockSteady s.io now → exec (.csTohost (.rd sid) sid tick) s = .next
        { s.put sid { st with syLref := c, syTotal := 0, syLastTick := c, syFirst := false, syLastRes := 0 }
          ((s.io.reads now 2).puts [.result (.rd sid) (.time 0)]) (.time 0) with ref := ⟨true, c, now⟩ })

/-! ### Bit depth codec -/

/-- `BD.MAP` (R245) and `BD.READTABLE` (R253): a code at or above the maximum is no-data whatever the mode; a read of a
missing table, or beyond its end, is refused. That `BD.MAP` runs whatever the stream's codec is, where no rule gives it a
meaning on a `PASS` or `XFORM` stream, is the model's choice (log entry 35, DESIGN CHOICE). -/
def Obligations.BdTables : Prop :=
  ∀ (s : State) (sid : Nat) (st : Stream), s.streams[sid]? = some st →
    (∀ code : Half,
      let maps : Half → Prop := fun x => exec (.bdMap sid code) s = .next (s.put sid st s.io (.cell x))
      (s.cfg.maxCode ≤ code.toNat → maps (BitVec.ofNat 16 s.cfg.noData)) ∧
      (code.toNat < s.cfg.maxCode → st.conf.lutEn = false → maps code) ∧
      (∀ x, code.toNat < s.cfg.maxCode → st.conf.lutEn = true → readCell st.s2d code.toNat = some x → maps x)) ∧
    (st.lock = none → ∀ idx : Nat,
      let reads : TableSel → Ret → Prop := fun which r => exec (.bdReadtable .host sid which idx) s = .next
        (s.put sid st (s.io.puts [.result .host r]) r)
      (st.calValid = false → reads .s2d .refused ∧ reads .d2s .refused) ∧
      (s.cfg.maxCode ≤ idx → reads .s2d .refused) ∧ (s.cfg.maxDepth < idx → reads .d2s .refused) ∧
      (∀ x, st.calValid = true → idx < s.cfg.maxCode → readCell st.s2d idx = some x → reads .s2d (.cell x)) ∧
      (∀ x, st.calValid = true → idx ≤ s.cfg.maxDepth → readCell st.d2s idx = some x → reads .d2s (.cell x)))

/-- `BD.ELEMENT` (R244, R247): a packed element gives back its `ELEM_OUT` codes, each as the sample it stands for; written to
the frame they are `SAMPLE_BITS / 8` bytes each, low first, all or nothing. -/
def Obligations.BdElement : Prop :=
  ∀ (s : State) (sid : Nat) (st : Stream) (w n : Nat) (codes : List Nat), s.streams[sid]? = some st →
    (st.conf.codec = .unpack11 ∧ w = 11 ∧ n = s.cfg.elemIn11) ∨
      (st.conf.codec = .unpack12 ∧ w = 12 ∧ n = s.cfg.elemIn12) →
    cfgLegal s.cfg = true → TableReady s.cfg st → codes.length = s.cfg.elemOut → (∀ c ∈ codes, c < 2 ^ w) →
    let elem := packElement w n codes
    let samples := codes.map (s.sample st)
    let m := s.cfg.sampleBits / 8
    samplesBytes m samples = (samples.map fun v => leBytes m v.toNat).flatten ∧
    (m = 2 → samplesBytes m samples = (samples.map halfBytes).flatten) ∧
    exec (.bdElement sid elem .list) s = .next (s.put sid st s.io (.samples samples)) ∧
    (st.outLen.toNat + m * s.cfg.elemOut ≤ st.conf.outCap.toNat →
      ∃ out, StoresAt st.out out st.outLen.toNat (samplesBytes m samples) ∧
        exec (.bdElement sid elem .out) s = .next (s.put sid
          { st with out := out, outLen := st.outLen + BitVec.ofNat 32 (m * s.cfg.elemOut) } s.io .none)) ∧
    (st.conf.outCap.toNat < st.outLen.toNat + m * s.cfg.elemOut → exec (.bdElement sid elem .out) s = .next
      (s.put sid st.overflowed (s.io.puts [.event (.outputBufferOverflow sid)]) .none))

/-- `BD.UNPACK` (R242): whole elements only, the remainder left to the caller; refused where the stream cannot unpack. It
writes no state, for whichever agent of the block asks (R287). -/
def Obligations.BdUnpack : Prop :=
  ∀ (s : State) (sid : Nat) (st : Stream) (a : Agent), s.streams[sid]? = some st → st.lock = none →
    agentExists s.cfg a = true →
    let answers : List Byte → Ret → Prop := fun input r =>
      exec (.bdUnpack a sid input) s = .next (s.put sid st (s.io.puts [.result a r]) r)
    let refuses := st.cfgValid = false ∨ st.conf.codec = .pass ∨ (st.conf.lutEn = true ∧ st.calValid = false)
    (∀ input, refuses → answers input .refused) ∧
    (∀ (w n : Nat) (elems : List (List Nat)) (rest : List Byte), ¬ refuses → TableReady s.cfg st →
      (st.conf.codec = .unpack11 ∧ w = 11 ∧ n = s.cfg.elemIn11) ∨
        (st.conf.codec = .unpack12 ∧ w = 12 ∧ n = s.cfg.elemIn12) → cfgLegal s.cfg = true →
      (∀ codes ∈ elems, codes.length = s.cfg.elemOut ∧ ∀ c ∈ codes, c < 2 ^ w) → rest.length < n →
      answers ((elems.map (packElement w n)).flatten ++ rest)
        (.unpacked (elems.length * n) (elems.flatten.map (s.sample st))))

/-- `BD.FEED` (R243): the bytes carried and the bytes fed are one input; its whole elements go to the frame in order, its
remainder is carried on; where they do not all fit the frame overflows, once. It decodes what `BD.UNPACK` of that input
decodes (R242). That it runs on no bytes, where the rule has at least one, is the model's choice (log entries 28 and 35, DESIGN
CHOICE). -/
def Obligations.BdFeed : Prop :=
  ∀ (s : State) (sid : Nat) (st : Stream) (w n : Nat) (elems : List (List Nat)) (carried d rest : List Byte),
    s.streams[sid]? = some st → st.drop = false → st.outLen.toNat ≤ st.conf.outCap.toNat →
    (st.conf.codec = .unpack11 ∧ w = 11 ∧ n = s.cfg.elemIn11) ∨
      (st.conf.codec = .unpack12 ∧ w = 12 ∧ n = s.cfg.elemIn12) →
    cfgLegal s.cfg = true → TableReady s.cfg st → st.cont = tableCells 0 carried →
    st.contLen.toNat = carried.length → carried.length < n →
    carried ++ d = (elems.map (packElement w n)).flatten ++ rest → rest.length < n →
    (∀ codes ∈ elems, codes.length = s.cfg.elemOut ∧ ∀ c ∈ codes, c < 2 ^ w) →
    let samples := elems.flatten.map (s.sample st)
    let m := s.cfg.sampleBits / 8
    let bytes := (samples.map fun v => leBytes m v.toNat).flatten
    (st.outLen.toNat + m * samples.length ≤ st.conf.outCap.toNat →
      ∃ out, StoresAt st.out out st.outLen.toNat bytes ∧
        exec (.bdFeed sid d) s = .next (s.put sid
          { st with out := out, outLen := st.outLen + BitVec.ofNat 32 (m * samples.length), cont := tableCells 0 rest
                    contLen := BitVec.ofNat 5 rest.length } s.io .none)) ∧
    (st.conf.outCap.toNat < st.outLen.toNat + m * samples.length → exec (.bdFeed sid d) s = .next
      (s.put sid st.overflowed (s.io.puts [.event (.outputBufferOverflow sid)]) .none)) ∧
    (st.lock = none → st.cfgValid = true → st.conf.lutEn = false ∨ st.calValid = true → ∀ a,
      agentExists s.cfg a = true →
      exec (.bdUnpack a sid (carried ++ d)) s = .next (s.put sid st
        (s.io.puts [.result a (.unpacked (elems.length * n) samples)]) (.unpacked (elems.length * n) samples)))

/-- `BD.CALIBRATE` (R250, R251) in closed form: a code is accepted where its depth is within the cutoffs and not below the
depth of an accepted smaller code; `S2D` holds the depths of the accepted codes, `D2S` the greatest accepted code whose
depth is at most the index. -/
def Obligations.BdCalibrate : Prop :=
  ∀ (s : State) (sid : Nat) (st : Stream) (cal : CalRecord) (mn mx : Half), s.streams[sid]? = some st →
    st.lock = none →
    let depth : Nat → Int := depthValue s.cfg.depthOf cal
    ∃ (s2d d2s : Cells Half) (accepted : Nat → Bool),
      exec (.bdCalibrate .host sid cal mn mx) s = .next (s.put sid
        { st with cal := cal, minCut := mn, maxCut := mx, s2d := s2d, d2s := d2s, calValid := true }
        (s.io.puts [.result .host .ok]) .ok) ∧
      Holds s2d s.cfg.maxCode ∧ Holds d2s (s.cfg.maxDepth + 1) ∧
      (∀ c, accepted c = true ↔ c < s.cfg.maxCode ∧ (mn.toNat : Int) ≤ depth c ∧ depth c ≤ mx.toNat ∧
        depth c ≤ s.cfg.maxDepth ∧ ∀ c', c' < c → accepted c' = true → depth c' ≤ depth c) ∧
      (∀ c, c < s.cfg.maxCode → readCell s2d c = some
        (if accepted c then BitVec.ofNat 16 (depth c).toNat else BitVec.ofNat 16 s.cfg.noData)) ∧
      (∀ x, x ≤ s.cfg.maxDepth → ∃ code, readCell d2s x = some (BitVec.ofNat 16 code) ∧
        ((accepted code = true ∧ depth code ≤ x ∧ ∀ c, accepted c = true → depth c ≤ x → c ≤ code) ∨
          (code = 0 ∧ ∀ c, accepted c = true → (x : Int) < depth c)))
end

