-- ==== Sys2Proof/Laws/State.lean ====
section
/-! SUPPORT. One lemma per field per shared update, each true by `rfl`, so that no later proof unfolds a record update. -/

namespace Sys2Proof.Machine

/-! ### Ports -/

@[simp] theorem Io.emit_clock (io : Io) (o : Output) : (io.emit o).clock = io.clock := rfl
@[simp] theorem Io.emit_sendQ (io : Io) (o : Output) : (io.emit o).sendQ = io.sendQ := rfl
@[simp] theorem Io.emit_sendRest (io : Io) (o : Output) : (io.emit o).sendRest = io.sendRest := rfl
@[simp] theorem Io.emit_recvQ (io : Io) (o : Output) : (io.emit o).recvQ = io.recvQ := rfl
@[simp] theorem Io.emit_grantLocks (io : Io) (o : Output) : (io.emit o).grantLocks = io.grantLocks := rfl
@[simp] theorem Io.emit_trace (io : Io) (o : Output) : (io.emit o).trace = io.trace ++ [o] := rfl
@[simp] theorem Io.raise_clock (io : Io) (e : Event) : (io.raise e).clock = io.clock := rfl
@[simp] theorem Io.raise_sendQ (io : Io) (e : Event) : (io.raise e).sendQ = io.sendQ := rfl
@[simp] theorem Io.raise_sendRest (io : Io) (e : Event) : (io.raise e).sendRest = io.sendRest := rfl
@[simp] theorem Io.raise_recvQ (io : Io) (e : Event) : (io.raise e).recvQ = io.recvQ := rfl
@[simp] theorem Io.raise_grantLocks (io : Io) (e : Event) : (io.raise e).grantLocks = io.grantLocks := rfl
@[simp] theorem Io.raise_trace (io : Io) (e : Event) : (io.raise e).trace = io.trace ++ [.event e] := rfl
@[simp] theorem Io.raiseSome_none (io : Io) : io.raiseSome none = io := rfl
@[simp] theorem Io.raiseSome_some (io : Io) (e : Event) : io.raiseSome (some e) = io.raise e := rfl
@[simp] theorem Io.puts_clock (io : Io) (os : List Output) : (io.puts os).clock = io.clock := rfl
@[simp] theorem Io.puts_sendQ (io : Io) (os : List Output) : (io.puts os).sendQ = io.sendQ := rfl
@[simp] theorem Io.puts_sendRest (io : Io) (os : List Output) : (io.puts os).sendRest = io.sendRest := rfl
@[simp] theorem Io.puts_recvQ (io : Io) (os : List Output) : (io.puts os).recvQ = io.recvQ := rfl
@[simp] theorem Io.puts_grantLocks (io : Io) (os : List Output) : (io.puts os).grantLocks = io.grantLocks := rfl
@[simp] theorem Io.puts_trace (io : Io) (os : List Output) : (io.puts os).trace = io.trace ++ os := rfl
@[simp] theorem Io.reads_clock (io : Io) (v : Micros) (k : Nat) :
    (io.reads v k).clock = { io.clock with last := v, reads := io.clock.reads + k } := rfl
@[simp] theorem Io.reads_sendQ (io : Io) (v : Micros) (k : Nat) : (io.reads v k).sendQ = io.sendQ := rfl
@[simp] theorem Io.reads_sendRest (io : Io) (v : Micros) (k : Nat) : (io.reads v k).sendRest = io.sendRest := rfl
@[simp] theorem Io.reads_recvQ (io : Io) (v : Micros) (k : Nat) : (io.reads v k).recvQ = io.recvQ := rfl
@[simp] theorem Io.reads_grantLocks (io : Io) (v : Micros) (k : Nat) : (io.reads v k).grantLocks = io.grantLocks := rfl
@[simp] theorem Io.reads_trace (io : Io) (v : Micros) (k : Nat) : (io.reads v k).trace = io.trace := rfl

/-! ### The view of a stream's operation -/

@[simp] theorem RdCtx.raise_sid (v : RdCtx) (e : Event) : (v.raise e).sid = v.sid := rfl
@[simp] theorem RdCtx.raise_cfg (v : RdCtx) (e : Event) : (v.raise e).cfg = v.cfg := rfl
@[simp] theorem RdCtx.raise_cap (v : RdCtx) (e : Event) : (v.raise e).cap = v.cap := rfl
@[simp] theorem RdCtx.raise_ref (v : RdCtx) (e : Event) : (v.raise e).ref = v.ref := rfl
@[simp] theorem RdCtx.raise_clkLock (v : RdCtx) (e : Event) : (v.raise e).clkLock = v.clkLock := rfl
@[simp] theorem RdCtx.raise_st (v : RdCtx) (e : Event) : (v.raise e).st = v.st := rfl
@[simp] theorem RdCtx.raise_io (v : RdCtx) (e : Event) : (v.raise e).io = v.io.raise e := rfl
@[simp] theorem RdCtx.emit_sid (v : RdCtx) (o : Output) : (v.emit o).sid = v.sid := rfl
@[simp] theorem RdCtx.emit_cfg (v : RdCtx) (o : Output) : (v.emit o).cfg = v.cfg := rfl
@[simp] theorem RdCtx.emit_cap (v : RdCtx) (o : Output) : (v.emit o).cap = v.cap := rfl
@[simp] theorem RdCtx.emit_ref (v : RdCtx) (o : Output) : (v.emit o).ref = v.ref := rfl
@[simp] theorem RdCtx.emit_clkLock (v : RdCtx) (o : Output) : (v.emit o).clkLock = v.clkLock := rfl
@[simp] theorem RdCtx.emit_st (v : RdCtx) (o : Output) : (v.emit o).st = v.st := rfl
@[simp] theorem RdCtx.emit_io (v : RdCtx) (o : Output) : (v.emit o).io = v.io.emit o := rfl
@[simp] theorem RdCtx.lock_sid (v : RdCtx) (a : Agent) : (v.lock a).sid = v.sid := rfl
@[simp] theorem RdCtx.lock_cfg (v : RdCtx) (a : Agent) : (v.lock a).cfg = v.cfg := rfl
@[simp] theorem RdCtx.lock_cap (v : RdCtx) (a : Agent) : (v.lock a).cap = v.cap := rfl
@[simp] theorem RdCtx.lock_ref (v : RdCtx) (a : Agent) : (v.lock a).ref = v.ref := rfl
@[simp] theorem RdCtx.lock_clkLock (v : RdCtx) (a : Agent) : (v.lock a).clkLock = v.clkLock := rfl
@[simp] theorem RdCtx.lock_st (v : RdCtx) (a : Agent) : (v.lock a).st = { v.st with lock := some a } := rfl
@[simp] theorem RdCtx.lock_io (v : RdCtx) (a : Agent) : (v.lock a).io = v.io := rfl
@[simp] theorem RdCtx.unlock_sid (v : RdCtx) : (v.unlock).sid = v.sid := rfl
@[simp] theorem RdCtx.unlock_cfg (v : RdCtx) : (v.unlock).cfg = v.cfg := rfl
@[simp] theorem RdCtx.unlock_cap (v : RdCtx) : (v.unlock).cap = v.cap := rfl
@[simp] theorem RdCtx.unlock_ref (v : RdCtx) : (v.unlock).ref = v.ref := rfl
@[simp] theorem RdCtx.unlock_clkLock (v : RdCtx) : (v.unlock).clkLock = v.clkLock := rfl
@[simp] theorem RdCtx.unlock_st (v : RdCtx) : (v.unlock).st = { v.st with lock := none } := rfl
@[simp] theorem RdCtx.unlock_io (v : RdCtx) : (v.unlock).io = v.io := rfl
@[simp] theorem RdCtx.park_sid (v : RdCtx) (w : TimeWait) (u : TimeUser) : (v.park w u).sid = v.sid := rfl
@[simp] theorem RdCtx.park_cfg (v : RdCtx) (w : TimeWait) (u : TimeUser) : (v.park w u).cfg = v.cfg := rfl
@[simp] theorem RdCtx.park_cap (v : RdCtx) (w : TimeWait) (u : TimeUser) : (v.park w u).cap = v.cap := rfl
@[simp] theorem RdCtx.park_ref (v : RdCtx) (w : TimeWait) (u : TimeUser) : (v.park w u).ref = v.ref := rfl
@[simp] theorem RdCtx.park_clkLock (v : RdCtx) (w : TimeWait) (u : TimeUser) : (v.park w u).clkLock = v.clkLock := rfl
@[simp] theorem RdCtx.park_st (v : RdCtx) (w : TimeWait) (u : TimeUser) :
    (v.park w u).st = { v.st with job := some ⟨w, u⟩ } := rfl
@[simp] theorem RdCtx.park_io (v : RdCtx) (w : TimeWait) (u : TimeUser) : (v.park w u).io = v.io := rfl
@[simp] theorem State.ctx_sid (s : State) (sid : Nat) (st : Stream) : (s.ctx sid st).sid = sid := rfl
@[simp] theorem State.ctx_cfg (s : State) (sid : Nat) (st : Stream) : (s.ctx sid st).cfg = s.cfg := rfl
@[simp] theorem State.ctx_cap (s : State) (sid : Nat) (st : Stream) : (s.ctx sid st).cap = s.cap := rfl
@[simp] theorem State.ctx_ref (s : State) (sid : Nat) (st : Stream) : (s.ctx sid st).ref = s.ref := rfl
@[simp] theorem State.ctx_clkLock (s : State) (sid : Nat) (st : Stream) : (s.ctx sid st).clkLock = s.clkLock := rfl
@[simp] theorem State.ctx_st (s : State) (sid : Nat) (st : Stream) : (s.ctx sid st).st = st := rfl
@[simp] theorem State.ctx_io (s : State) (sid : Nat) (st : Stream) : (s.ctx sid st).io = s.io := rfl

/-! ### The view of an exchange -/

@[simp] theorem CtCtx.raise_cfg (c : CtCtx) (e : Event) : (c.raise e).cfg = c.cfg := rfl
@[simp] theorem CtCtx.raise_cap (c : CtCtx) (e : Event) : (c.raise e).cap = c.cap := rfl
@[simp] theorem CtCtx.raise_x (c : CtCtx) (e : Event) : (c.raise e).x = c.x := rfl
@[simp] theorem CtCtx.raise_io (c : CtCtx) (e : Event) : (c.raise e).io = c.io.raise e := rfl
@[simp] theorem CtCtx.raiseSome_cfg (c : CtCtx) (e : Option Event) : (c.raiseSome e).cfg = c.cfg := rfl
@[simp] theorem CtCtx.raiseSome_cap (c : CtCtx) (e : Option Event) : (c.raiseSome e).cap = c.cap := rfl
@[simp] theorem CtCtx.raiseSome_x (c : CtCtx) (e : Option Event) : (c.raiseSome e).x = c.x := rfl
@[simp] theorem CtCtx.raiseSome_io (c : CtCtx) (e : Option Event) : (c.raiseSome e).io = c.io.raiseSome e := rfl
@[simp] theorem CtCtx.at_cfg (c : CtCtx) (p : CtPhase) : (c.at p).cfg = c.cfg := rfl
@[simp] theorem CtCtx.at_cap (c : CtCtx) (p : CtPhase) : (c.at p).cap = c.cap := rfl
@[simp] theorem CtCtx.at_x (c : CtCtx) (p : CtPhase) : (c.at p).x = { c.x with phase := p } := rfl
@[simp] theorem CtCtx.at_io (c : CtCtx) (p : CtPhase) : (c.at p).io = c.io := rfl
@[simp] theorem CtCtx.leave_cfg (c : CtCtx) (q : List RecvAns) : (c.leave q).cfg = c.cfg := rfl
@[simp] theorem CtCtx.leave_cap (c : CtCtx) (q : List RecvAns) : (c.leave q).cap = c.cap := rfl
@[simp] theorem CtCtx.leave_x (c : CtCtx) (q : List RecvAns) : (c.leave q).x = c.x := rfl
@[simp] theorem CtCtx.leave_io (c : CtCtx) (q : List RecvAns) : (c.leave q).io = { c.io with recvQ := q } := rfl
@[simp] theorem State.ctCtx_cfg (s : State) (x : Exchange) : (s.ctCtx x).cfg = s.cfg := rfl
@[simp] theorem State.ctCtx_cap (s : State) (x : Exchange) : (s.ctCtx x).cap = s.cap := rfl
@[simp] theorem State.ctCtx_x (s : State) (x : Exchange) : (s.ctCtx x).x = x := rfl
@[simp] theorem State.ctCtx_io (s : State) (x : Exchange) : (s.ctCtx x).io = s.io := rfl

/-! ### The state -/

@[simp] theorem State.returns_cfg (s : State) (r : Ret) : (s.returns r).cfg = s.cfg := rfl
@[simp] theorem State.returns_capValid (s : State) (r : Ret) : (s.returns r).capValid = s.capValid := rfl
@[simp] theorem State.returns_capVersion (s : State) (r : Ret) : (s.returns r).capVersion = s.capVersion := rfl
@[simp] theorem State.returns_cap (s : State) (r : Ret) : (s.returns r).cap = s.cap := rfl
@[simp] theorem State.returns_nextId (s : State) (r : Ret) : (s.returns r).nextId = s.nextId := rfl
@[simp] theorem State.returns_cmdLock (s : State) (r : Ret) : (s.returns r).cmdLock = s.cmdLock := rfl
@[simp] theorem State.returns_exchange (s : State) (r : Ret) : (s.returns r).exchange = s.exchange := rfl
@[simp] theorem State.returns_ref (s : State) (r : Ret) : (s.returns r).ref = s.ref := rfl
@[simp] theorem State.returns_clkLock (s : State) (r : Ret) : (s.returns r).clkLock = s.clkLock := rfl
@[simp] theorem State.returns_streams (s : State) (r : Ret) : (s.returns r).streams = s.streams := rfl
@[simp] theorem State.returns_io (s : State) (r : Ret) : (s.returns r).io = s.io := rfl
@[simp] theorem State.returns_stimuli (s : State) (r : Ret) : (s.returns r).stimuli = s.stimuli := rfl
@[simp] theorem State.returns_held (s : State) (r : Ret) : (s.returns r).held = s.held := rfl
@[simp] theorem State.returns_admitted (s : State) (r : Ret) : (s.returns r).admitted = s.admitted := rfl
@[simp] theorem State.returns_choices (s : State) (r : Ret) : (s.returns r).choices = s.choices := rfl
@[simp] theorem State.returns_ret (s : State) (r : Ret) : (s.returns r).ret = r := rfl
@[simp] theorem State.reply_cfg (s : State) (a : Agent) (r : Ret) : (s.reply a r).cfg = s.cfg := rfl
@[simp] theorem State.reply_capValid (s : State) (a : Agent) (r : Ret) : (s.reply a r).capValid = s.capValid := rfl
@[simp] theorem State.reply_capVersion (s : State) (a : Agent) (r : Ret) :
    (s.reply a r).capVersion = s.capVersion := rfl
@[simp] theorem State.reply_cap (s : State) (a : Agent) (r : Ret) : (s.reply a r).cap = s.cap := rfl
@[simp] theorem State.reply_nextId (s : State) (a : Agent) (r : Ret) : (s.reply a r).nextId = s.nextId := rfl
@[simp] theorem State.reply_cmdLock (s : State) (a : Agent) (r : Ret) : (s.reply a r).cmdLock = s.cmdLock := rfl
@[simp] theorem State.reply_exchange (s : State) (a : Agent) (r : Ret) : (s.reply a r).exchange = s.exchange := rfl
@[simp] theorem State.reply_ref (s : State) (a : Agent) (r : Ret) : (s.reply a r).ref = s.ref := rfl
@[simp] theorem State.reply_clkLock (s : State) (a : Agent) (r : Ret) : (s.reply a r).clkLock = s.clkLock := rfl
@[simp] theorem State.reply_streams (s : State) (a : Agent) (r : Ret) : (s.reply a r).streams = s.streams := rfl
@[simp] theorem State.reply_io (s : State) (a : Agent) (r : Ret) : (s.reply a r).io = s.io.emit (.result a r) := rfl
@[simp] theorem State.reply_stimuli (s : State) (a : Agent) (r : Ret) : (s.reply a r).stimuli = s.stimuli := rfl
@[simp] theorem State.reply_held (s : State) (a : Agent) (r : Ret) : (s.reply a r).held = s.held := rfl
@[simp] theorem State.reply_admitted (s : State) (a : Agent) (r : Ret) : (s.reply a r).admitted = s.admitted := rfl
@[simp] theorem State.reply_choices (s : State) (a : Agent) (r : Ret) : (s.reply a r).choices = s.choices := rfl
@[simp] theorem State.reply_ret (s : State) (a : Agent) (r : Ret) : (s.reply a r).ret = r := rfl
@[simp] theorem State.hold_cfg (s : State) (i : Instr) : (s.hold i).cfg = s.cfg := rfl
@[simp] theorem State.hold_capValid (s : State) (i : Instr) : (s.hold i).capValid = s.capValid := rfl
@[simp] theorem State.hold_capVersion (s : State) (i : Instr) : (s.hold i).capVersion = s.capVersion := rfl
@[simp] theorem State.hold_cap (s : State) (i : Instr) : (s.hold i).cap = s.cap := rfl
@[simp] theorem State.hold_nextId (s : State) (i : Instr) : (s.hold i).nextId = s.nextId := rfl
@[simp] theorem State.hold_cmdLock (s : State) (i : Instr) : (s.hold i).cmdLock = s.cmdLock := rfl
@[simp] theorem State.hold_exchange (s : State) (i : Instr) : (s.hold i).exchange = s.exchange := rfl
@[simp] theorem State.hold_ref (s : State) (i : Instr) : (s.hold i).ref = s.ref := rfl
@[simp] theorem State.hold_clkLock (s : State) (i : Instr) : (s.hold i).clkLock = s.clkLock := rfl
@[simp] theorem State.hold_streams (s : State) (i : Instr) : (s.hold i).streams = s.streams := rfl
@[simp] theorem State.hold_io (s : State) (i : Instr) : (s.hold i).io = s.io := rfl
@[simp] theorem State.hold_stimuli (s : State) (i : Instr) : (s.hold i).stimuli = s.stimuli := rfl
@[simp] theorem State.hold_held (s : State) (i : Instr) : (s.hold i).held = s.held ++ [i] := rfl
@[simp] theorem State.hold_admitted (s : State) (i : Instr) : (s.hold i).admitted = s.admitted := rfl
@[simp] theorem State.hold_choices (s : State) (i : Instr) : (s.hold i).choices = s.choices := rfl
@[simp] theorem State.hold_ret (s : State) (i : Instr) : (s.hold i).ret = Ret.waiting := rfl
@[simp] theorem State.withCtx_cfg (s : State) (v : RdCtx) : (s.withCtx v).cfg = s.cfg := rfl
@[simp] theorem State.withCtx_capValid (s : State) (v : RdCtx) : (s.withCtx v).capValid = s.capValid := rfl
@[simp] theorem State.withCtx_capVersion (s : State) (v : RdCtx) : (s.withCtx v).capVersion = s.capVersion := rfl
@[simp] theorem State.withCtx_cap (s : State) (v : RdCtx) : (s.withCtx v).cap = s.cap := rfl
@[simp] theorem State.withCtx_nextId (s : State) (v : RdCtx) : (s.withCtx v).nextId = s.nextId := rfl
@[simp] theorem State.withCtx_cmdLock (s : State) (v : RdCtx) : (s.withCtx v).cmdLock = s.cmdLock := rfl
@[simp] theorem State.withCtx_exchange (s : State) (v : RdCtx) : (s.withCtx v).exchange = s.exchange := rfl
@[simp] theorem State.withCtx_ref (s : State) (v : RdCtx) : (s.withCtx v).ref = v.ref := rfl
@[simp] theorem State.withCtx_clkLock (s : State) (v : RdCtx) : (s.withCtx v).clkLock = v.clkLock := rfl
@[simp] theorem State.withCtx_streams (s : State) (v : RdCtx) : (s.withCtx v).streams = s.streams.set v.sid v.st := rfl
@[simp] theorem State.withCtx_io (s : State) (v : RdCtx) : (s.withCtx v).io = v.io := rfl
@[simp] theorem State.withCtx_stimuli (s : State) (v : RdCtx) : (s.withCtx v).stimuli = s.stimuli := rfl
@[simp] theorem State.withCtx_held (s : State) (v : RdCtx) : (s.withCtx v).held = s.held := rfl
@[simp] theorem State.withCtx_admitted (s : State) (v : RdCtx) : (s.withCtx v).admitted = s.admitted := rfl
@[simp] theorem State.withCtx_choices (s : State) (v : RdCtx) : (s.withCtx v).choices = s.choices := rfl
@[simp] theorem State.withCtx_ret (s : State) (v : RdCtx) : (s.withCtx v).ret = s.ret := rfl
@[simp] theorem State.put_cfg (s : State) (sid : Nat) (st : Stream) (io : Io) (r : Ret) :
    (s.put sid st io r).cfg = s.cfg := rfl
@[simp] theorem State.put_capValid (s : State) (sid : Nat) (st : Stream) (io : Io) (r : Ret) :
    (s.put sid st io r).capValid = s.capValid := rfl
@[simp] theorem State.put_capVersion (s : State) (sid : Nat) (st : Stream) (io : Io) (r : Ret) :
    (s.put sid st io r).capVersion = s.capVersion := rfl
@[simp] theorem State.put_cap (s : State) (sid : Nat) (st : Stream) (io : Io) (r : Ret) :
    (s.put sid st io r).cap = s.cap := rfl
@[simp] theorem State.put_nextId (s : State) (sid : Nat) (st : Stream) (io : Io) (r : Ret) :
    (s.put sid st io r).nextId = s.nextId := rfl
@[simp] theorem State.put_cmdLock (s : State) (sid : Nat) (st : Stream) (io : Io) (r : Ret) :
    (s.put sid st io r).cmdLock = s.cmdLock := rfl
@[simp] theorem State.put_exchange (s : State) (sid : Nat) (st : Stream) (io : Io) (r : Ret) :
    (s.put sid st io r).exchange = s.exchange := rfl
@[simp] theorem State.put_ref (s : State) (sid : Nat) (st : Stream) (io : Io) (r : Ret) :
    (s.put sid st io r).ref = s.ref := rfl
@[simp] theorem State.put_clkLock (s : State) (sid : Nat) (st : Stream) (io : Io) (r : Ret) :
    (s.put sid st io r).clkLock = s.clkLock := rfl
@[simp] theorem State.put_streams (s : State) (sid : Nat) (st : Stream) (io : Io) (r : Ret) :
    (s.put sid st io r).streams = s.streams.set sid st := rfl
@[simp] theorem State.put_io (s : State) (sid : Nat) (st : Stream) (io : Io) (r : Ret) :
    (s.put sid st io r).io = io := rfl
@[simp] theorem State.put_stimuli (s : State) (sid : Nat) (st : Stream) (io : Io) (r : Ret) :
    (s.put sid st io r).stimuli = s.stimuli := rfl
@[simp] theorem State.put_held (s : State) (sid : Nat) (st : Stream) (io : Io) (r : Ret) :
    (s.put sid st io r).held = s.held := rfl
@[simp] theorem State.put_admitted (s : State) (sid : Nat) (st : Stream) (io : Io) (r : Ret) :
    (s.put sid st io r).admitted = s.admitted := rfl
@[simp] theorem State.put_choices (s : State) (sid : Nat) (st : Stream) (io : Io) (r : Ret) :
    (s.put sid st io r).choices = s.choices := rfl
@[simp] theorem State.put_ret (s : State) (sid : Nat) (st : Stream) (io : Io) (r : Ret) :
    (s.put sid st io r).ret = r := rfl

/-! ### A stream record -/

@[simp] theorem frameReset_lock (st : Stream) : (frameReset st).lock = st.lock := rfl
@[simp] theorem frameReset_job (st : Stream) : (frameReset st).job = st.job := rfl
@[simp] theorem frameReset_cfgValid (st : Stream) : (frameReset st).cfgValid = st.cfgValid := rfl
@[simp] theorem frameReset_conf (st : Stream) : (frameReset st).conf = st.conf := rfl
@[simp] theorem frameReset_pstate (st : Stream) : (frameReset st).pstate = st.pstate := rfl
@[simp] theorem frameReset_ignLeft (st : Stream) : (frameReset st).ignLeft = st.ignLeft := rfl
@[simp] theorem frameReset_magicHalf (st : Stream) : (frameReset st).magicHalf = st.magicHalf := rfl
@[simp] theorem frameReset_hdrCnt (st : Stream) : (frameReset st).hdrCnt = st.hdrCnt := rfl
@[simp] theorem frameReset_dataLeft (st : Stream) : (frameReset st).dataLeft = st.dataLeft := rfl
@[simp] theorem frameReset_dataOff (st : Stream) : (frameReset st).dataOff = st.dataOff := rfl
@[simp] theorem frameReset_hdr (st : Stream) : (frameReset st).hdr = st.hdr := rfl
@[simp] theorem frameReset_lastSeq (st : Stream) : (frameReset st).lastSeq = st.lastSeq := rfl
@[simp] theorem frameReset_lossMark (st : Stream) : (frameReset st).lossMark = false := rfl
@[simp] theorem frameReset_lossFirst (st : Stream) : (frameReset st).lossFirst = false := rfl
@[simp] theorem frameReset_lossLast (st : Stream) : (frameReset st).lossLast = false := rfl
@[simp] theorem frameReset_outLen (st : Stream) : (frameReset st).outLen = 0 := rfl
@[simp] theorem frameReset_trailPad (st : Stream) : (frameReset st).trailPad = 0 := rfl
@[simp] theorem frameReset_corrupt (st : Stream) : (frameReset st).corrupt = false := rfl
@[simp] theorem frameReset_drop (st : Stream) : (frameReset st).drop = false := rfl
@[simp] theorem frameReset_frameId (st : Stream) : (frameReset st).frameId = st.frameId := rfl
@[simp] theorem frameReset_pktTime (st : Stream) : (frameReset st).pktTime = st.pktTime := rfl
@[simp] theorem frameReset_cont (st : Stream) : (frameReset st).cont = [] := rfl
@[simp] theorem frameReset_contLen (st : Stream) : (frameReset st).contLen = 0 := rfl
@[simp] theorem frameReset_syFirst (st : Stream) : (frameReset st).syFirst = st.syFirst := rfl
@[simp] theorem frameReset_syLref (st : Stream) : (frameReset st).syLref = st.syLref := rfl
@[simp] theorem frameReset_syTotal (st : Stream) : (frameReset st).syTotal = st.syTotal := rfl
@[simp] theorem frameReset_syLastTick (st : Stream) : (frameReset st).syLastTick = st.syLastTick := rfl
@[simp] theorem frameReset_syLastRes (st : Stream) : (frameReset st).syLastRes = st.syLastRes := rfl
@[simp] theorem frameReset_out (st : Stream) : (frameReset st).out = [] := rfl
@[simp] theorem frameReset_calValid (st : Stream) : (frameReset st).calValid = st.calValid := rfl
@[simp] theorem frameReset_cal (st : Stream) : (frameReset st).cal = st.cal := rfl
@[simp] theorem frameReset_minCut (st : Stream) : (frameReset st).minCut = st.minCut := rfl
@[simp] theorem frameReset_maxCut (st : Stream) : (frameReset st).maxCut = st.maxCut := rfl
@[simp] theorem frameReset_s2d (st : Stream) : (frameReset st).s2d = st.s2d := rfl
@[simp] theorem frameReset_d2s (st : Stream) : (frameReset st).d2s = st.d2s := rfl
@[simp] theorem overflowFlags_lock (st : Stream) : (overflowFlags st).lock = st.lock := rfl
@[simp] theorem overflowFlags_job (st : Stream) : (overflowFlags st).job = st.job := rfl
@[simp] theorem overflowFlags_cfgValid (st : Stream) : (overflowFlags st).cfgValid = st.cfgValid := rfl
@[simp] theorem overflowFlags_conf (st : Stream) : (overflowFlags st).conf = st.conf := rfl
@[simp] theorem overflowFlags_pstate (st : Stream) : (overflowFlags st).pstate = st.pstate := rfl
@[simp] theorem overflowFlags_ignLeft (st : Stream) : (overflowFlags st).ignLeft = st.ignLeft := rfl
@[simp] theorem overflowFlags_magicHalf (st : Stream) : (overflowFlags st).magicHalf = st.magicHalf := rfl
@[simp] theorem overflowFlags_hdrCnt (st : Stream) : (overflowFlags st).hdrCnt = st.hdrCnt := rfl
@[simp] theorem overflowFlags_dataLeft (st : Stream) : (overflowFlags st).dataLeft = st.dataLeft := rfl
@[simp] theorem overflowFlags_dataOff (st : Stream) : (overflowFlags st).dataOff = st.dataOff := rfl
@[simp] theorem overflowFlags_hdr (st : Stream) : (overflowFlags st).hdr = st.hdr := rfl
@[simp] theorem overflowFlags_lastSeq (st : Stream) : (overflowFlags st).lastSeq = st.lastSeq := rfl
@[simp] theorem overflowFlags_lossMark (st : Stream) : (overflowFlags st).lossMark = st.lossMark := rfl
@[simp] theorem overflowFlags_lossFirst (st : Stream) : (overflowFlags st).lossFirst = st.lossFirst := rfl
@[simp] theorem overflowFlags_lossLast (st : Stream) : (overflowFlags st).lossLast = st.lossLast := rfl
@[simp] theorem overflowFlags_outLen (st : Stream) : (overflowFlags st).outLen = 0 := rfl
@[simp] theorem overflowFlags_trailPad (st : Stream) : (overflowFlags st).trailPad = st.trailPad := rfl
@[simp] theorem overflowFlags_corrupt (st : Stream) : (overflowFlags st).corrupt = true := rfl
@[simp] theorem overflowFlags_drop (st : Stream) : (overflowFlags st).drop = true := rfl
@[simp] theorem overflowFlags_frameId (st : Stream) : (overflowFlags st).frameId = st.frameId := rfl
@[simp] theorem overflowFlags_pktTime (st : Stream) : (overflowFlags st).pktTime = st.pktTime := rfl
@[simp] theorem overflowFlags_cont (st : Stream) : (overflowFlags st).cont = [] := rfl
@[simp] theorem overflowFlags_contLen (st : Stream) : (overflowFlags st).contLen = 0 := rfl
@[simp] theorem overflowFlags_syFirst (st : Stream) : (overflowFlags st).syFirst = st.syFirst := rfl
@[simp] theorem overflowFlags_syLref (st : Stream) : (overflowFlags st).syLref = st.syLref := rfl
@[simp] theorem overflowFlags_syTotal (st : Stream) : (overflowFlags st).syTotal = st.syTotal := rfl
@[simp] theorem overflowFlags_syLastTick (st : Stream) : (overflowFlags st).syLastTick = st.syLastTick := rfl
@[simp] theorem overflowFlags_syLastRes (st : Stream) : (overflowFlags st).syLastRes = st.syLastRes := rfl
@[simp] theorem overflowFlags_out (st : Stream) : (overflowFlags st).out = [] := rfl
@[simp] theorem overflowFlags_calValid (st : Stream) : (overflowFlags st).calValid = st.calValid := rfl
@[simp] theorem overflowFlags_cal (st : Stream) : (overflowFlags st).cal = st.cal := rfl
@[simp] theorem overflowFlags_minCut (st : Stream) : (overflowFlags st).minCut = st.minCut := rfl
@[simp] theorem overflowFlags_maxCut (st : Stream) : (overflowFlags st).maxCut = st.maxCut := rfl
@[simp] theorem overflowFlags_s2d (st : Stream) : (overflowFlags st).s2d = st.s2d := rfl
@[simp] theorem overflowFlags_d2s (st : Stream) : (overflowFlags st).d2s = st.d2s := rfl
@[simp] theorem eofChecks_lock (st : Stream) (cfg : Cfg) : (eofChecks cfg st).lock = st.lock := rfl
@[simp] theorem eofChecks_job (st : Stream) (cfg : Cfg) : (eofChecks cfg st).job = st.job := rfl
@[simp] theorem eofChecks_cfgValid (st : Stream) (cfg : Cfg) : (eofChecks cfg st).cfgValid = st.cfgValid := rfl
@[simp] theorem eofChecks_conf (st : Stream) (cfg : Cfg) : (eofChecks cfg st).conf = st.conf := rfl
@[simp] theorem eofChecks_pstate (st : Stream) (cfg : Cfg) : (eofChecks cfg st).pstate = st.pstate := rfl
@[simp] theorem eofChecks_ignLeft (st : Stream) (cfg : Cfg) : (eofChecks cfg st).ignLeft = st.ignLeft := rfl
@[simp] theorem eofChecks_magicHalf (st : Stream) (cfg : Cfg) : (eofChecks cfg st).magicHalf = st.magicHalf := rfl
@[simp] theorem eofChecks_hdrCnt (st : Stream) (cfg : Cfg) : (eofChecks cfg st).hdrCnt = st.hdrCnt := rfl
@[simp] theorem eofChecks_dataLeft (st : Stream) (cfg : Cfg) : (eofChecks cfg st).dataLeft = st.dataLeft := rfl
@[simp] theorem eofChecks_dataOff (st : Stream) (cfg : Cfg) : (eofChecks cfg st).dataOff = st.dataOff := rfl
@[simp] theorem eofChecks_hdr (st : Stream) (cfg : Cfg) : (eofChecks cfg st).hdr = st.hdr := rfl
@[simp] theorem eofChecks_lastSeq (st : Stream) (cfg : Cfg) : (eofChecks cfg st).lastSeq = st.lastSeq := rfl
@[simp] theorem eofChecks_lossMark (st : Stream) (cfg : Cfg) : (eofChecks cfg st).lossMark = st.lossMark := rfl
@[simp] theorem eofChecks_lossFirst (st : Stream) (cfg : Cfg) : (eofChecks cfg st).lossFirst = st.lossFirst := rfl
@[simp] theorem eofChecks_lossLast (st : Stream) (cfg : Cfg) : (eofChecks cfg st).lossLast = st.lossLast := rfl
@[simp] theorem eofChecks_outLen (st : Stream) (cfg : Cfg) : (eofChecks cfg st).outLen = st.outLen := rfl
@[simp] theorem eofChecks_trailPad (st : Stream) (cfg : Cfg) : (eofChecks cfg st).trailPad = st.trailPad := rfl
@[simp] theorem eofChecks_corrupt (st : Stream) (cfg : Cfg) :
    (eofChecks cfg st).corrupt = (st.corrupt || st.contLen != 0 || decide (st.outLen.toNat ≠ expectedBytes cfg st.conf)) := rfl
@[simp] theorem eofChecks_drop (st : Stream) (cfg : Cfg) : (eofChecks cfg st).drop = st.drop := rfl
@[simp] theorem eofChecks_frameId (st : Stream) (cfg : Cfg) : (eofChecks cfg st).frameId = st.frameId := rfl
@[simp] theorem eofChecks_pktTime (st : Stream) (cfg : Cfg) : (eofChecks cfg st).pktTime = st.pktTime := rfl
@[simp] theorem eofChecks_cont (st : Stream) (cfg : Cfg) : (eofChecks cfg st).cont = [] := rfl
@[simp] theorem eofChecks_contLen (st : Stream) (cfg : Cfg) : (eofChecks cfg st).contLen = 0 := rfl
@[simp] theorem eofChecks_syFirst (st : Stream) (cfg : Cfg) : (eofChecks cfg st).syFirst = st.syFirst := rfl
@[simp] theorem eofChecks_syLref (st : Stream) (cfg : Cfg) : (eofChecks cfg st).syLref = st.syLref := rfl
@[simp] theorem eofChecks_syTotal (st : Stream) (cfg : Cfg) : (eofChecks cfg st).syTotal = st.syTotal := rfl
@[simp] theorem eofChecks_syLastTick (st : Stream) (cfg : Cfg) : (eofChecks cfg st).syLastTick = st.syLastTick := rfl
@[simp] theorem eofChecks_syLastRes (st : Stream) (cfg : Cfg) : (eofChecks cfg st).syLastRes = st.syLastRes := rfl
@[simp] theorem eofChecks_out (st : Stream) (cfg : Cfg) : (eofChecks cfg st).out = st.out := rfl
@[simp] theorem eofChecks_calValid (st : Stream) (cfg : Cfg) : (eofChecks cfg st).calValid = st.calValid := rfl
@[simp] theorem eofChecks_cal (st : Stream) (cfg : Cfg) : (eofChecks cfg st).cal = st.cal := rfl
@[simp] theorem eofChecks_minCut (st : Stream) (cfg : Cfg) : (eofChecks cfg st).minCut = st.minCut := rfl
@[simp] theorem eofChecks_maxCut (st : Stream) (cfg : Cfg) : (eofChecks cfg st).maxCut = st.maxCut := rfl
@[simp] theorem eofChecks_s2d (st : Stream) (cfg : Cfg) : (eofChecks cfg st).s2d = st.s2d := rfl
@[simp] theorem eofChecks_d2s (st : Stream) (cfg : Cfg) : (eofChecks cfg st).d2s = st.d2s := rfl
@[simp] theorem parserReset_lock (st : Stream) (p : PState) : (parserReset st p).lock = st.lock := rfl
@[simp] theorem parserReset_job (st : Stream) (p : PState) : (parserReset st p).job = st.job := rfl
@[simp] theorem parserReset_cfgValid (st : Stream) (p : PState) : (parserReset st p).cfgValid = st.cfgValid := rfl
@[simp] theorem parserReset_conf (st : Stream) (p : PState) : (parserReset st p).conf = st.conf := rfl
@[simp] theorem parserReset_pstate (st : Stream) (p : PState) : (parserReset st p).pstate = p := rfl
@[simp] theorem parserReset_ignLeft (st : Stream) (p : PState) : (parserReset st p).ignLeft = st.ignLeft := rfl
@[simp] theorem parserReset_magicHalf (st : Stream) (p : PState) : (parserReset st p).magicHalf = false := rfl
@[simp] theorem parserReset_hdrCnt (st : Stream) (p : PState) : (parserReset st p).hdrCnt = 0 := rfl
@[simp] theorem parserReset_dataLeft (st : Stream) (p : PState) : (parserReset st p).dataLeft = 0 := rfl
@[simp] theorem parserReset_dataOff (st : Stream) (p : PState) : (parserReset st p).dataOff = 0 := rfl
@[simp] theorem parserReset_hdr (st : Stream) (p : PState) : (parserReset st p).hdr = [] := rfl
@[simp] theorem parserReset_lastSeq (st : Stream) (p : PState) : (parserReset st p).lastSeq = st.lastSeq := rfl
@[simp] theorem parserReset_lossMark (st : Stream) (p : PState) : (parserReset st p).lossMark = st.lossMark := rfl
@[simp] theorem parserReset_lossFirst (st : Stream) (p : PState) : (parserReset st p).lossFirst = st.lossFirst := rfl
@[simp] theorem parserReset_lossLast (st : Stream) (p : PState) : (parserReset st p).lossLast = st.lossLast := rfl
@[simp] theorem parserReset_outLen (st : Stream) (p : PState) : (parserReset st p).outLen = st.outLen := rfl
@[simp] theorem parserReset_trailPad (st : Stream) (p : PState) : (parserReset st p).trailPad = st.trailPad := rfl
@[simp] theorem parserReset_corrupt (st : Stream) (p : PState) : (parserReset st p).corrupt = st.corrupt := rfl
@[simp] theorem parserReset_drop (st : Stream) (p : PState) : (parserReset st p).drop = st.drop := rfl
@[simp] theorem parserReset_frameId (st : Stream) (p : PState) : (parserReset st p).frameId = st.frameId := rfl
@[simp] theorem parserReset_pktTime (st : Stream) (p : PState) : (parserReset st p).pktTime = st.pktTime := rfl
@[simp] theorem parserReset_cont (st : Stream) (p : PState) : (parserReset st p).cont = st.cont := rfl
@[simp] theorem parserReset_contLen (st : Stream) (p : PState) : (parserReset st p).contLen = st.contLen := rfl
@[simp] theorem parserReset_syFirst (st : Stream) (p : PState) : (parserReset st p).syFirst = st.syFirst := rfl
@[simp] theorem parserReset_syLref (st : Stream) (p : PState) : (parserReset st p).syLref = st.syLref := rfl
@[simp] theorem parserReset_syTotal (st : Stream) (p : PState) : (parserReset st p).syTotal = st.syTotal := rfl
@[simp] theorem parserReset_syLastTick (st : Stream) (p : PState) : (parserReset st p).syLastTick = st.syLastTick := rfl
@[simp] theorem parserReset_syLastRes (st : Stream) (p : PState) : (parserReset st p).syLastRes = st.syLastRes := rfl
@[simp] theorem parserReset_out (st : Stream) (p : PState) : (parserReset st p).out = st.out := rfl
@[simp] theorem parserReset_calValid (st : Stream) (p : PState) : (parserReset st p).calValid = st.calValid := rfl
@[simp] theorem parserReset_cal (st : Stream) (p : PState) : (parserReset st p).cal = st.cal := rfl
@[simp] theorem parserReset_minCut (st : Stream) (p : PState) : (parserReset st p).minCut = st.minCut := rfl
@[simp] theorem parserReset_maxCut (st : Stream) (p : PState) : (parserReset st p).maxCut = st.maxCut := rfl
@[simp] theorem parserReset_s2d (st : Stream) (p : PState) : (parserReset st p).s2d = st.s2d := rfl
@[simp] theorem parserReset_d2s (st : Stream) (p : PState) : (parserReset st p).d2s = st.d2s := rfl
@[simp] theorem lossFlags_lock (st : Stream) (sof now : Bool) : (lossFlags st sof now).lock = st.lock := rfl
@[simp] theorem lossFlags_job (st : Stream) (sof now : Bool) : (lossFlags st sof now).job = st.job := rfl
@[simp] theorem lossFlags_cfgValid (st : Stream) (sof now : Bool) : (lossFlags st sof now).cfgValid = st.cfgValid := rfl
@[simp] theorem lossFlags_conf (st : Stream) (sof now : Bool) : (lossFlags st sof now).conf = st.conf := rfl
@[simp] theorem lossFlags_pstate (st : Stream) (sof now : Bool) : (lossFlags st sof now).pstate = st.pstate := rfl
@[simp] theorem lossFlags_ignLeft (st : Stream) (sof now : Bool) : (lossFlags st sof now).ignLeft = st.ignLeft := rfl
@[simp] theorem lossFlags_magicHalf (st : Stream) (sof now : Bool) :
    (lossFlags st sof now).magicHalf = st.magicHalf := rfl
@[simp] theorem lossFlags_hdrCnt (st : Stream) (sof now : Bool) : (lossFlags st sof now).hdrCnt = st.hdrCnt := rfl
@[simp] theorem lossFlags_dataLeft (st : Stream) (sof now : Bool) : (lossFlags st sof now).dataLeft = st.dataLeft := rfl
@[simp] theorem lossFlags_dataOff (st : Stream) (sof now : Bool) : (lossFlags st sof now).dataOff = st.dataOff := rfl
@[simp] theorem lossFlags_hdr (st : Stream) (sof now : Bool) : (lossFlags st sof now).hdr = st.hdr := rfl
@[simp] theorem lossFlags_lastSeq (st : Stream) (sof now : Bool) : (lossFlags st sof now).lastSeq = st.lastSeq := rfl
@[simp] theorem lossFlags_lossMark (st : Stream) (sof now : Bool) :
    (lossFlags st sof now).lossMark = (st.lossMark || now) := rfl
@[simp] theorem lossFlags_lossFirst (st : Stream) (sof now : Bool) :
    (lossFlags st sof now).lossFirst = (if sof then now else st.lossFirst) := rfl
@[simp] theorem lossFlags_lossLast (st : Stream) (sof now : Bool) : (lossFlags st sof now).lossLast = now := rfl
@[simp] theorem lossFlags_outLen (st : Stream) (sof now : Bool) : (lossFlags st sof now).outLen = st.outLen := rfl
@[simp] theorem lossFlags_trailPad (st : Stream) (sof now : Bool) : (lossFlags st sof now).trailPad = st.trailPad := rfl
@[simp] theorem lossFlags_corrupt (st : Stream) (sof now : Bool) : (lossFlags st sof now).corrupt = st.corrupt := rfl
@[simp] theorem lossFlags_drop (st : Stream) (sof now : Bool) : (lossFlags st sof now).drop = st.drop := rfl
@[simp] theorem lossFlags_frameId (st : Stream) (sof now : Bool) : (lossFlags st sof now).frameId = st.frameId := rfl
@[simp] theorem lossFlags_pktTime (st : Stream) (sof now : Bool) : (lossFlags st sof now).pktTime = st.pktTime := rfl
@[simp] theorem lossFlags_cont (st : Stream) (sof now : Bool) : (lossFlags st sof now).cont = st.cont := rfl
@[simp] theorem lossFlags_contLen (st : Stream) (sof now : Bool) : (lossFlags st sof now).contLen = st.contLen := rfl
@[simp] theorem lossFlags_syFirst (st : Stream) (sof now : Bool) : (lossFlags st sof now).syFirst = st.syFirst := rfl
@[simp] theorem lossFlags_syLref (st : Stream) (sof now : Bool) : (lossFlags st sof now).syLref = st.syLref := rfl
@[simp] theorem lossFlags_syTotal (st : Stream) (sof now : Bool) : (lossFlags st sof now).syTotal = st.syTotal := rfl
@[simp] theorem lossFlags_syLastTick (st : Stream) (sof now : Bool) :
    (lossFlags st sof now).syLastTick = st.syLastTick := rfl
@[simp] theorem lossFlags_syLastRes (st : Stream) (sof now : Bool) :
    (lossFlags st sof now).syLastRes = st.syLastRes := rfl
@[simp] theorem lossFlags_out (st : Stream) (sof now : Bool) : (lossFlags st sof now).out = st.out := rfl
@[simp] theorem lossFlags_calValid (st : Stream) (sof now : Bool) : (lossFlags st sof now).calValid = st.calValid := rfl
@[simp] theorem lossFlags_cal (st : Stream) (sof now : Bool) : (lossFlags st sof now).cal = st.cal := rfl
@[simp] theorem lossFlags_minCut (st : Stream) (sof now : Bool) : (lossFlags st sof now).minCut = st.minCut := rfl
@[simp] theorem lossFlags_maxCut (st : Stream) (sof now : Bool) : (lossFlags st sof now).maxCut = st.maxCut := rfl
@[simp] theorem lossFlags_s2d (st : Stream) (sof now : Bool) : (lossFlags st sof now).s2d = st.s2d := rfl
@[simp] theorem lossFlags_d2s (st : Stream) (sof now : Bool) : (lossFlags st sof now).d2s = st.d2s := rfl
@[simp] theorem syForget_lock (st : Stream) : (syForget st).lock = st.lock := rfl
@[simp] theorem syForget_job (st : Stream) : (syForget st).job = st.job := rfl
@[simp] theorem syForget_cfgValid (st : Stream) : (syForget st).cfgValid = st.cfgValid := rfl
@[simp] theorem syForget_conf (st : Stream) : (syForget st).conf = st.conf := rfl
@[simp] theorem syForget_pstate (st : Stream) : (syForget st).pstate = st.pstate := rfl
@[simp] theorem syForget_ignLeft (st : Stream) : (syForget st).ignLeft = st.ignLeft := rfl
@[simp] theorem syForget_magicHalf (st : Stream) : (syForget st).magicHalf = st.magicHalf := rfl
@[simp] theorem syForget_hdrCnt (st : Stream) : (syForget st).hdrCnt = st.hdrCnt := rfl
@[simp] theorem syForget_dataLeft (st : Stream) : (syForget st).dataLeft = st.dataLeft := rfl
@[simp] theorem syForget_dataOff (st : Stream) : (syForget st).dataOff = st.dataOff := rfl
@[simp] theorem syForget_hdr (st : Stream) : (syForget st).hdr = st.hdr := rfl
@[simp] theorem syForget_lastSeq (st : Stream) : (syForget st).lastSeq = st.lastSeq := rfl
@[simp] theorem syForget_lossMark (st : Stream) : (syForget st).lossMark = st.lossMark := rfl
@[simp] theorem syForget_lossFirst (st : Stream) : (syForget st).lossFirst = st.lossFirst := rfl
@[simp] theorem syForget_lossLast (st : Stream) : (syForget st).lossLast = st.lossLast := rfl
@[simp] theorem syForget_outLen (st : Stream) : (syForget st).outLen = st.outLen := rfl
@[simp] theorem syForget_trailPad (st : Stream) : (syForget st).trailPad = st.trailPad := rfl
@[simp] theorem syForget_corrupt (st : Stream) : (syForget st).corrupt = st.corrupt := rfl
@[simp] theorem syForget_drop (st : Stream) : (syForget st).drop = st.drop := rfl
@[simp] theorem syForget_frameId (st : Stream) : (syForget st).frameId = st.frameId := rfl
@[simp] theorem syForget_pktTime (st : Stream) : (syForget st).pktTime = st.pktTime := rfl
@[simp] theorem syForget_cont (st : Stream) : (syForget st).cont = st.cont := rfl
@[simp] theorem syForget_contLen (st : Stream) : (syForget st).contLen = st.contLen := rfl
@[simp] theorem syForget_syFirst (st : Stream) : (syForget st).syFirst = true := rfl
@[simp] theorem syForget_syLref (st : Stream) : (syForget st).syLref = st.syLref := rfl
@[simp] theorem syForget_syTotal (st : Stream) : (syForget st).syTotal = st.syTotal := rfl
@[simp] theorem syForget_syLastTick (st : Stream) : (syForget st).syLastTick = st.syLastTick := rfl
@[simp] theorem syForget_syLastRes (st : Stream) : (syForget st).syLastRes = st.syLastRes := rfl
@[simp] theorem syForget_out (st : Stream) : (syForget st).out = st.out := rfl
@[simp] theorem syForget_calValid (st : Stream) : (syForget st).calValid = st.calValid := rfl
@[simp] theorem syForget_cal (st : Stream) : (syForget st).cal = st.cal := rfl
@[simp] theorem syForget_minCut (st : Stream) : (syForget st).minCut = st.minCut := rfl
@[simp] theorem syForget_maxCut (st : Stream) : (syForget st).maxCut = st.maxCut := rfl
@[simp] theorem syForget_s2d (st : Stream) : (syForget st).s2d = st.s2d := rfl
@[simp] theorem syForget_d2s (st : Stream) : (syForget st).d2s = st.d2s := rfl

end Sys2Proof.Machine
end

