-- ==== Sys2Proof/Laws/Memory.lean ====
section
/-! SUPPORT. The laws of the stores: read after write, every write keeps the canonical form, and the stores that list
`0 .. n-1` are the tables of `n` values. -/

namespace Sys2Proof.Machine

variable {α : Type}

/-! ### Read after write -/

@[simp] theorem readCell_nil (a : Nat) : readCell ([] : Cells α) a = none := rfl

theorem readCell_cons (b : Nat) (w : α) (m : Cells α) (a : Nat) :
    readCell ((b, w) :: m) a = if a = b then some w else readCell m a := rfl

theorem readCell_writeCell (m : Cells α) (a b : Nat) (v : α) :
    readCell (writeCell m a v) b = if b = a then some v else readCell m b := by
  induction m with
  | nil => rfl
  | cons e m ih =>
    obtain ⟨c, w⟩ := e
    simp only [writeCell]
    split
    · rfl
    · split
      · subst_vars
        simp only [readCell_cons]
        split <;> rfl
      · simp only [readCell_cons, ih]
        split
        · rw [if_neg (by omega)]
        · rfl

@[simp] theorem readCell_writeCell_same (m : Cells α) (a : Nat) (v : α) : readCell (writeCell m a v) a = some v := by
  simp [readCell_writeCell]

theorem readCell_writeCell_other (m : Cells α) {a b : Nat} (v : α) (h : b ≠ a) :
    readCell (writeCell m a v) b = readCell m b := by
  simp [readCell_writeCell, h]

/-- What a cell holds after a write of a list: the list's value inside it, the old value outside (R60, R148). -/
theorem readCell_writeCells (vs : List α) (m : Cells α) (a b : Nat) :
    readCell (writeCells m a vs) b = if a ≤ b ∧ b < a + vs.length then vs[b - a]? else readCell m b := by
  induction vs generalizing m a with
  | nil => simp only [writeCells, List.length_nil]; rw [if_neg (by omega)]
  | cons v vs ih =>
    simp only [writeCells, ih, List.length_cons, readCell_writeCell]
    by_cases h : b = a
    · subst h
      rw [if_neg (by omega), if_pos rfl, if_pos (by omega)]
      simp
    · by_cases h2 : a + 1 ≤ b ∧ b < a + 1 + vs.length
      · rw [if_pos h2, if_pos (by omega)]
        obtain ⟨k, rfl⟩ : ∃ k, b = a + 1 + k := ⟨b - (a + 1), by omega⟩
        simp [show a + 1 + k - a = k + 1 by omega, show a + 1 + k - (a + 1) = k by omega]
      · rw [if_neg h2, if_neg h, if_neg (by omega)]

theorem readCell_writeCells_outside (vs : List α) (m : Cells α) {a b : Nat} (h : b < a ∨ a + vs.length ≤ b) :
    readCell (writeCells m a vs) b = readCell m b := by
  rw [readCell_writeCells, if_neg (by omega)]

/-! ### The canonical form -/

theorem wf_tail {e : Nat × α} {m : Cells α} (h : Cells.wf (e :: m)) : Cells.wf m := by
  cases m with
  | nil => rfl
  | cons f m => simp only [Cells.wf, cellsRising, Bool.and_eq_true] at h; exact h.2

theorem wf_cons {a : Nat} {w : α} {m : Cells α} (hm : Cells.wf m) (h : ∀ e ∈ m.head?, a < e.1) :
    Cells.wf ((a, w) :: m) := by
  cases m with
  | nil => rfl
  | cons f m => simp only [Cells.wf, cellsRising, Bool.and_eq_true, decide_eq_true_eq]; exact ⟨h f rfl, hm⟩

theorem wf_head {a : Nat} {w : α} {m : Cells α} (h : Cells.wf ((a, w) :: m)) : ∀ e ∈ m.head?, a < e.1 := by
  cases m with
  | nil => simp
  | cons f m =>
    simp only [Cells.wf, cellsRising, Bool.and_eq_true, decide_eq_true_eq] at h
    intro e he
    simp only [List.head?_cons, Option.mem_def, Option.some.injEq] at he
    exact he ▸ h.1

theorem writeCell_head (m : Cells α) (a : Nat) (v : α) (c : Nat) (hc : c < a) (hm : ∀ e ∈ m.head?, c < e.1) :
    ∀ e ∈ (writeCell m a v).head?, c < e.1 := by
  cases m with
  | nil => simpa [writeCell] using hc
  | cons f m =>
    obtain ⟨b, w⟩ := f
    have hb : c < b := hm (b, w) rfl
    simp only [writeCell]
    split
    · simpa using hc
    · split
      · simpa using hc
      · simpa using hb

/-- A write keeps the canonical form. -/
theorem writeCell_keeps_wf (m : Cells α) (a : Nat) (v : α) (h : Cells.wf m) : Cells.wf (writeCell m a v) := by
  induction m with
  | nil => rfl
  | cons e m ih =>
    obtain ⟨b, w⟩ := e
    simp only [writeCell]
    split
    · exact wf_cons h (by simpa using ‹a < b›)
    · split
      · subst_vars
        exact wf_cons (wf_tail h) (wf_head h)
      · exact wf_cons (ih (wf_tail h)) (writeCell_head m a v b (by omega) (wf_head h))

/-- A write of a list keeps the canonical form. -/
theorem writeCells_keeps_wf (vs : List α) (m : Cells α) (a : Nat) (h : Cells.wf m) : Cells.wf (writeCells m a vs) := by
  induction vs generalizing m a with
  | nil => exact h
  | cons v vs ih => exact ih _ _ (writeCell_keeps_wf m a v h)

/-- A whole table has the canonical form. -/
theorem tableCells_wf (vs : List α) (a : Nat) : Cells.wf (tableCells a vs) := by
  induction vs generalizing a with
  | nil => rfl
  | cons v vs ih =>
    refine wf_cons (ih (a + 1)) ?_
    cases vs <;> simp [tableCells]

/-- The stores of the reset state have the canonical form. -/
theorem reset_stores_wf : ∀ st ∈ State.reset.streams,
    Memory.wf st.hdr ∧ Memory.wf st.cont ∧ Memory.wf st.out ∧ Cells.wf st.s2d ∧ Cells.wf st.d2s := by decide

/-! ### Tables: the stores that list the cells from an address up -/

theorem tableCells_addresses (vs : List α) (a : Nat) : (tableCells a vs).map Prod.fst = List.range' a vs.length := by
  induction vs generalizing a with
  | nil => rfl
  | cons v vs ih => simp [tableCells, ih, List.range'_succ]

theorem readCell_tableCells (vs : List α) (a b : Nat) :
    readCell (tableCells a vs) b = if a ≤ b then vs[b - a]? else none := by
  induction vs generalizing a with
  | nil => simp [tableCells]
  | cons v vs ih =>
    simp only [tableCells, readCell_cons, ih]
    by_cases h : b = a
    · subst h; simp
    · rw [if_neg h]
      by_cases h2 : a ≤ b
      · rw [if_pos (by omega), if_pos h2]
        obtain ⟨k, rfl⟩ : ∃ k, b = a + 1 + k := ⟨b - (a + 1), by omega⟩
        simp [show a + 1 + k - a = k + 1 by omega, show a + 1 + k - (a + 1) = k by omega]
      · rw [if_neg (by omega), if_neg h2]

theorem writeCell_tableCells_end (vs : List α) (a : Nat) (v : α) :
    writeCell (tableCells a vs) (a + vs.length) v = tableCells a (vs ++ [v]) := by
  induction vs generalizing a with
  | nil => rfl
  | cons w vs ih =>
    simp only [tableCells, writeCell, List.length_cons, List.cons_append]
    rw [if_neg (by omega), if_neg (by omega), show a + (vs.length + 1) = a + 1 + vs.length by omega, ih]

/-- Appending to a table at its end is the table of the longer list (R61). -/
theorem writeCells_tableCells_end (ws vs : List α) (a : Nat) :
    writeCells (tableCells a vs) (a + vs.length) ws = tableCells a (vs ++ ws) := by
  induction ws generalizing vs with
  | nil => simp [writeCells]
  | cons w ws ih =>
    simp only [writeCells, writeCell_tableCells_end]
    have h := ih (vs ++ [w])
    simp only [List.length_append, List.length_cons, List.length_nil, List.append_assoc, List.cons_append,
      List.nil_append] at h
    rw [← h, show a + vs.length + 1 = a + (vs.length + (0 + 1)) by omega]

theorem writeCells_tableCells_zero (ws vs : List α) :
    writeCells (tableCells 0 vs) vs.length ws = tableCells 0 (vs ++ ws) := by
  have h := writeCells_tableCells_end ws vs 0
  simpa using h

theorem writeCells_nil_zero (ws : List α) : writeCells ([] : Cells α) 0 ws = tableCells 0 ws :=
  writeCells_tableCells_zero ws []

/-- A store that lists `0 .. n-1` is the table of its values. -/
theorem holds_eq_table {m : Cells α} {n : Nat} (h : Holds m n) : m = tableCells 0 (m.map Prod.snd) ∧ m.length = n := by
  have key : ∀ (m : Cells α) (a : Nat), m.map Prod.fst = List.range' a m.length → m = tableCells a (m.map Prod.snd) := by
    intro m
    induction m with
    | nil => intro a _; rfl
    | cons e m ih =>
      intro a h
      obtain ⟨b, w⟩ := e
      simp only [List.map_cons, List.length_cons, List.range'_succ, List.cons.injEq] at h
      simp only [List.map_cons, tableCells]
      rw [← ih (a + 1) h.2, h.1]
  have hl : m.length = n := by simpa using congrArg List.length h
  refine ⟨key m 0 ?_, hl⟩
  rw [hl, ← List.range_eq_range']
  exact h

theorem tableCells_holds (vs : List α) : Holds (tableCells 0 vs) vs.length := by
  rw [Holds, tableCells_addresses, ← List.range_eq_range']

theorem holds_wf {m : Cells α} {n : Nat} (h : Holds m n) : Cells.wf m := by
  rw [(holds_eq_table h).1]; exact tableCells_wf _ _

/-! ### Reading runs of cells -/

theorem readCells_tableCells_from (sp : Space) (pre vs post : List α) :
    readCells sp (tableCells 0 (pre ++ vs ++ post)) pre.length vs.length = .ok vs := by
  induction vs generalizing pre with
  | nil => rfl
  | cons v vs ih =>
    have h := ih (pre ++ [v])
    simp only [List.append_assoc, List.cons_append, List.nil_append, List.length_append, List.length_cons,
      List.length_nil] at h
    simp only [List.length_cons, readCells, List.append_assoc, List.cons_append, readCell_tableCells]
    simp only [Nat.zero_le, if_true, Nat.sub_zero, List.getElem?_append_right (Nat.le_refl _), Nat.sub_self,
      List.getElem?_cons_zero]
    simp only [Nat.zero_add] at h
    rw [h]
    rfl

/-- Reading a whole table gives its values. -/
theorem readCells_tableCells (sp : Space) (vs : List α) : readCells sp (tableCells 0 vs) 0 vs.length = .ok vs := by
  have h := readCells_tableCells_from sp [] vs []
  simpa using h

/-- The header fields of a store that holds 12 header bytes (R32). -/
theorem readHeader_table (b : List Byte) (h : b.length = 12) : readHeader (tableCells 0 b) = .ok (headerOf b) := by
  have hr := readCells_tableCells .hdr b
  rw [h] at hr
  simp only [readHeader, Config.hdrSize, hr]
  rfl

end Sys2Proof.Machine
end

