-- ==== Sys2Proof/Laws/Ops.lean ====
section
/-! SUPPORT. One lemma per shared operation that says once what it can do; the provers cite these instead of unfolding. -/

namespace Sys2Proof.Machine

/-! ### The environment -/

/-- All a host clock read can do: wait, where the environment has supplied no answer; or answer, and change nothing but the
clock (R13, R18, R110). -/
theorem hostClock_cases (io : Io) :
    (clockDraw io.clock = none ∧ hostClock io = none) ∨
      ∃ now, hostClock io = some (now, { io with clock :=
          { queue := io.clock.queue.tail, rest := io.clock.rest, last := now, reads := io.clock.reads + 1 } }) ∧
        io.clock.last ≤ now := by
  simp only [hostClock]
  cases clockDraw io.clock with
  | none => exact .inl ⟨rfl, rfl⟩
  | some draw =>
    refine .inr ⟨_, rfl, ?_⟩
    split
    · exact BitVec.le_refl _
    · exact BitVec.not_lt.mp ‹_›

/-- What a read leaves behind (R13). -/
theorem hostClock_io {io io' : Io} {now : Micros} (h : hostClock io = some (now, io')) :
    io' = { io with clock :=
      { queue := io.clock.queue.tail, rest := io.clock.rest, last := now, reads := io.clock.reads + 1 } } := by
  rcases hostClock_cases io with ⟨-, hn⟩ | ⟨now', hs, -⟩
  · simp [hn] at h
  · rw [hs] at h
    simp only [Option.some.injEq, Prod.mk.injEq] at h
    obtain ⟨rfl, rfl⟩ := h
    rfl

/-- No answer of the host clock is below the one before (R14). -/
theorem hostClock_ge_last {io io' : Io} {now : Micros} (h : hostClock io = some (now, io')) : io.clock.last ≤ now := by
  rcases hostClock_cases io with ⟨-, hn⟩ | ⟨now', hs, hl⟩
  · simp [hn] at h
  · rw [hs] at h
    simp only [Option.some.injEq, Prod.mk.injEq] at h
    exact h.1 ▸ hl

/-- A clock with a rest never waits. -/
theorem hostClock_answers {io : Io} (h : io.clock.rest ≠ none) : ∃ now io', hostClock io = some (now, io') := by
  rcases hostClock_cases io with ⟨hd, -⟩ | ⟨now, hs, -⟩
  · simp only [clockDraw] at hd
    split at hd
    · simp at hd
    · exact absurd hd h
  · exact ⟨_, _, hs⟩

/-- A clock that holds an answer not below its last one gives it (R110: the last one holds until changed). -/
theorem hostClock_steady {io : Io} {v : Micros} (h : ClockSteady io v) : hostClock io = some (v, io.reads v 1) := by
  obtain ⟨⟨q, r, l, n⟩, sq, sr, rq, g, tr⟩ := io
  obtain ⟨hq, hr, hl⟩ := h
  simp only at hq hr hl
  subst hq hr
  simp [hostClock, clockDraw, BitVec.not_lt.mpr hl, Io.reads]

/-- A raw send waits, where the environment has supplied no answer, or takes one and puts its bytes out (R18, R292). -/
theorem rawSend_cases (io : Io) (bytes : List Byte) (t : Word) :
    (sendDraw io = none ∧ rawSend io bytes t = none) ∨
      ∃ a, sendDraw io = some a ∧ rawSend io bytes t =
        some (a, { io with sendQ := io.sendQ.tail, trace := io.trace ++ [.tx bytes t] }) := by
  cases h : sendDraw io with
  | none => exact .inl ⟨rfl, by simp [rawSend, h]⟩
  | some a => exact .inr ⟨a, rfl, by simp [rawSend, h]⟩

/-! ### Numbers -/

theorem to64_ok {x : Int} (h0 : 0 ≤ x) (h1 : x < 18446744073709551616) : to64 x = .ok (BitVec.ofNat 64 x.toNat) := by
  simp [to64, h0, h1]

/-- The only fault of a 64-bit write is that the value does not fit; a value that fits is kept exactly (R142). -/
theorem to64_cases (x : Int) :
    (∃ r, to64 x = .ok r ∧ (r.toNat : Int) = x) ∨ to64 x = .error .outOf64Bits := by
  by_cases h : 0 ≤ x ∧ x < 18446744073709551616
  · left
    refine ⟨_, to64_ok h.1 h.2, ?_⟩
    simp only [BitVec.toNat_ofNat]
    omega
  · right; simp [to64, h]

/-! ### Operations of one stream -/

/-- All an internal operation of a stream can do: refuse a missing stream, fault as its body does, or go on with the
body's own record, reference and ports. -/
theorem onStream_cases (s : State) (sid : Nat) (f : RdCtx → Except Fault (Ret × RdCtx)) :
    (s.streams[sid]? = none ∧ s.onStream sid f = .refused (.illFormed .noSuchStream)) ∨
      ∃ st, s.streams[sid]? = some st ∧
        ((∃ e, f (s.ctx sid st) = .error e ∧ s.onStream sid f = .fault e) ∨
          ∃ r v, f (s.ctx sid st) = .ok (r, v) ∧ s.onStream sid f = .next ((s.withCtx v).returns r)) := by
  cases h : s.streams[sid]? with
  | none => left; exact ⟨rfl, by simp [State.onStream, h]⟩
  | some st =>
    right
    refine ⟨st, rfl, ?_⟩
    cases hf : f (s.ctx sid st) with
    | error e => left; exact ⟨e, rfl, by simp [State.onStream, h, hf]⟩
    | ok p => right; exact ⟨p.1, p.2, rfl, by simp [State.onStream, h, hf]⟩

theorem onStream_ok {s : State} {sid : Nat} {st : Stream} {f : RdCtx → Except Fault (Ret × RdCtx)} {r : Ret} {v : RdCtx}
    (hs : s.streams[sid]? = some st) (hf : f (s.ctx sid st) = .ok (r, v)) :
    s.onStream sid f = .next ((s.withCtx v).returns r) := by
  simp [State.onStream, hs, hf]

/-- A host operation of a stream, by an agent of its row, with its lock free: it runs under the lock (R75). -/
theorem onHost_ok {s : State} {i : Instr} {a : Agent} {sid : Nat} {st : Stream}
    {f : RdCtx → Except Fault (Ret × RdCtx)} {r : Ret} {v : RdCtx} (hs : s.streams[sid]? = some st)
    (hl : st.lock = none) (hf : f ((s.ctx sid st).lock a) = .ok (r, v)) :
    s.onHost i true a sid f = .next ((s.withCtx v.unlock).reply a r) := by
  simp [State.onHost, hs, Stream.locked, hl, hf]

/-- A host operation by an agent that is not in its row has no step (R287). -/
theorem onHost_wrongAgent (s : State) (i : Instr) (a : Agent) (sid : Nat)
    (f : RdCtx → Except Fault (Ret × RdCtx)) : s.onHost i false a sid f = .refused .wrongAgent := by
  simp [State.onHost]

/-- A host operation whose stream's lock is held waits (R75). -/
theorem onHost_locked {s : State} {i : Instr} {a : Agent} {sid : Nat} {st : Stream}
    {f : RdCtx → Except Fault (Ret × RdCtx)} (hs : s.streams[sid]? = some st) (hl : st.lock ≠ none) :
    s.onHost i true a sid f = .next (s.hold i) := by
  simp [State.onHost, hs, Stream.locked, Option.isSome_iff_ne_none, hl]

/-- All a host operation of a stream can do. -/
theorem onHost_cases (s : State) (i : Instr) (allowed : Bool) (a : Agent) (sid : Nat)
    (f : RdCtx → Except Fault (Ret × RdCtx)) :
    (∃ r, s.onHost i allowed a sid f = .refused r) ∨ s.onHost i allowed a sid f = .next (s.hold i) ∨
      ∃ st, s.streams[sid]? = some st ∧ st.lock = none ∧
        ((∃ e, f ((s.ctx sid st).lock a) = .error e ∧ s.onHost i allowed a sid f = .fault e) ∨
          ∃ r v, f ((s.ctx sid st).lock a) = .ok (r, v) ∧
            s.onHost i allowed a sid f = .next ((s.withCtx v.unlock).reply a r)) := by
  cases ha : allowed with
  | false => left; exact ⟨_, by simp [State.onHost]; rfl⟩
  | true =>
    cases h : s.streams[sid]? with
    | none => left; exact ⟨_, by simp [State.onHost, h]; rfl⟩
    | some st =>
      right
      cases hl : st.lock with
      | some b => left; exact onHost_locked h (by simp [hl])
      | none =>
        right
        refine ⟨st, rfl, hl, ?_⟩
        cases hf : f ((s.ctx sid st).lock a) with
        | error e => left; exact ⟨e, rfl, by simp [State.onHost, h, Stream.locked, hl, hf]⟩
        | ok p => right; exact ⟨p.1, p.2, rfl, onHost_ok h hl hf⟩

/-- An operation of a reader agent that can begin is the internal operation. -/
theorem onReader_free {s : State} {i : Instr} {sid : Nat} {st : Stream} {waits : Stream → Bool}
    {f : RdCtx → Except Fault (Ret × RdCtx)} (hs : s.streams[sid]? = some st) (hw : waits st = false) :
    s.onReader i sid waits f = s.onStream sid f := by
  simp [State.onReader, hs, hw]

/-- An operation of a reader agent that cannot begin waits (R75, R281). -/
theorem onReader_waits {s : State} {i : Instr} {sid : Nat} {st : Stream} {waits : Stream → Bool}
    {f : RdCtx → Except Fault (Ret × RdCtx)} (hs : s.streams[sid]? = some st) (hw : waits st = true) :
    s.onReader i sid waits f = .next (s.hold i) := by
  simp [State.onReader, hs, hw]

/-! ### The output buffer -/

/-- A write that fits moves the cursor by its length (R61). -/
theorem appendOut_fits {v : RdCtx} {bs : List Byte} (h : v.st.outLen.toNat + bs.length ≤ v.st.conf.outCap.toNat) :
    appendOut v bs = { v with st := { v.st with out := writeCells v.st.out v.st.outLen.toNat bs
                                                outLen := BitVec.ofNat 32 (v.st.outLen.toNat + bs.length) } } := by
  simp [appendOut, Nat.not_lt.mpr h]

/-- A write that does not fit is not made at all, and overflows (R61, R186). -/
theorem appendOut_overflows {v : RdCtx} {bs : List Byte}
    (h : v.st.conf.outCap.toNat < v.st.outLen.toNat + bs.length) :
    appendOut v bs = { v with st := overflowFlags v.st, io := v.io.raise (.outputBufferOverflow v.sid) } := by
  simp [appendOut, h, prOverflow, RdCtx.raise]

/-! ### Samples and ticks -/

/-- A counter of 32 bits or more shows an operand tick as it is (R8). -/
theorem counterTick_wide {cfg : Cfg} (tick : Tick) (h : 32 ≤ cfg.tickBits) : counterTick cfg tick = tick := by
  apply BitVec.eq_of_toNat_eq
  have hp : 2 ^ 32 ≤ 2 ^ cfg.tickBits := Nat.pow_le_pow_right (by decide) h
  simp only [counterTick, BitVec.toNat_ofNat]
  rw [Nat.mod_eq_of_lt (Nat.lt_of_lt_of_le tick.isLt hp), Nat.mod_eq_of_lt tick.isLt]

/-- What a counter of `TICK_BITS` bits shows, as a number. -/
theorem counterTick_toNat (cfg : Cfg) (tick : Tick) : (counterTick cfg tick).toNat = tick.toNat % 2 ^ cfg.tickBits := by
  simp only [counterTick, BitVec.toNat_ofNat]
  exact Nat.mod_eq_of_lt (Nat.lt_of_le_of_lt (Nat.mod_le _ _) tick.isLt)

/-- What a counter shows lies within one wrap. -/
theorem counterTick_lt (cfg : Cfg) (tick : Tick) : (counterTick cfg tick).toNat < 2 ^ cfg.tickBits := by
  rw [counterTick_toNat]
  exact Nat.mod_lt _ (Nat.two_pow_pos _)

/-- What a counter shows is read again as the same. -/
@[simp] theorem counterTick_idem (cfg : Cfg) (tick : Tick) :
    counterTick cfg (counterTick cfg tick) = counterTick cfg tick := by
  apply BitVec.eq_of_toNat_eq
  simp only [counterTick_toNat, Nat.mod_mod]

@[simp] theorem leBytes_length (n value : Nat) : (leBytes n value).length = n := by
  induction n generalizing value with
  | zero => rfl
  | succ n ih => simp [leBytes, ih]

@[simp] theorem storedSample_length (n value : Nat) : (storedSample n value).length = n := by
  simp [storedSample]

/-- A value that `n` bytes hold is stored low byte first (R185, R244). -/
theorem storedSample_fits {n value : Nat} (h : value < 256 ^ n) : storedSample n value = leBytes n value := by
  rw [storedSample, if_pos h]

/-- A 16-bit sample in 2 bytes (R244). -/
theorem storedSample_half (v : Half) : storedSample 2 v.toNat = halfBytes v := by
  rw [storedSample_fits (by have := v.isLt; omega)]
  simp [leBytes, halfBytes, loByte, hiByte, BitVec.toNat_eq, BitVec.extractLsb'_toNat, Nat.shiftRight_eq_div_pow]

/-- `n` samples of `m` bytes are `m * n` bytes (R45, R244). -/
@[simp] theorem samplesBytes_length (m : Nat) (vs : List Half) : (samplesBytes m vs).length = m * vs.length := by
  induction vs with
  | nil => simp [samplesBytes]
  | cons v vs ih =>
    simp only [samplesBytes, List.map_cons, List.flatten_cons, List.length_append, storedSample_length] at ih ⊢
    rw [ih, List.length_cons, Nat.mul_succ, Nat.add_comm]

/-! ### Byte order -/

@[simp] theorem le16_halfBytes (x : Half) : le16 (loByte x) (hiByte x) = x := by
  apply BitVec.eq_of_getLsbD_eq
  intro i hi
  simp only [le16, loByte, hiByte, BitVec.getLsbD_append, BitVec.getLsbD_extractLsb']
  by_cases h : i < 8
  · simp [h]
  · simp [h, show i - 8 < 8 by omega, show 8 + (i - 8) = i by omega]

@[simp] theorem le32_wordBytes (x : Tick) :
    le32 (x.extractLsb' 0 8) (x.extractLsb' 8 8) (x.extractLsb' 16 8) (x.extractLsb' 24 8) = x := by
  apply BitVec.eq_of_getLsbD_eq
  intro i hi
  simp only [le32, BitVec.getLsbD_append, BitVec.getLsbD_extractLsb']
  by_cases h : i < 8
  · simp [h]
  · by_cases h2 : i < 16
    · simp [h, show i - 8 < 8 by omega, show 8 + (i - 8) = i by omega]
    · by_cases h3 : i < 24
      · simp [h, show ¬ i - 8 < 8 by omega, show i - 8 - 8 < 8 by omega, show 16 + (i - 8 - 8) = i by omega]
      · simp [h, show ¬ i - 8 < 8 by omega, show ¬ i - 8 - 8 < 8 by omega, show i - 8 - 8 - 8 < 8 by omega,
          show 24 + (i - 8 - 8 - 8) = i by omega]

@[simp] theorem headerBytes_length (m t q z : Half) (ts : Tick) : (headerBytes m t q z ts).length = 12 := rfl

/-- The fields of the 12 bytes of a header are the fields it was built from (R32, R91). -/
@[simp] theorem headerOf_headerBytes (m t q z : Half) (ts : Tick) :
    headerOf (headerBytes m t q z ts) = { magic := m, type := t, seq := q, size := z, ts := ts } := by
  simp [headerOf, headerBytes, halfBytes, wordBytes]

/-- The header fields of a store that holds a header (R32). -/
theorem readHeader_headerBytes (m t q z : Half) (ts : Tick) :
    readHeader (tableCells 0 (headerBytes m t q z ts)) =
      .ok { magic := m, type := t, seq := q, size := z, ts := ts } := by
  rw [readHeader_table _ (headerBytes_length m t q z ts), headerOf_headerBytes]

end Sys2Proof.Machine
end

