-- ==== Sys2Proof/Laws/Transport.lean ====
section
/-! SUPPORT. What the shared operations of the command transport do: polling a steady clock, the retry loops on a list of
answers, and a reply that lies whole in one chunk. -/

namespace Sys2Proof.Machine

/-! ### The deadline test -/

/-- All a poll can do: wait at the clock read; end in the timeout, raised once; or go on to the receive of the same loop
(R18, R127, R130, R135). -/
theorem ctPoll_cases {α : Type} (c : CtCtx) (p : CtPhase) :
    (hostClock c.io = none ∧ ctPoll (α := α) c p = (.wait, c.at p)) ∨
      ∃ now io, hostClock c.io = some (now, io) ∧
        ((c.x.deadline ≤ now ∧ ctPoll (α := α) c p =
            (.fail .transportTimeout, { c with io := io.raise .transportTimeout })) ∨
          (now < c.x.deadline ∧ ctPoll (α := α) c p =
            (.wait, { c with io := io, x := { c.x with xrCnt := 0, phase := p.receiving } }))) := by
  cases h : hostClock c.io with
  | none => exact .inl ⟨rfl, by simp [ctPoll, h]⟩
  | some q =>
    obtain ⟨now, io⟩ := q
    refine .inr ⟨now, io, rfl, ?_⟩
    by_cases hd : c.x.deadline ≤ now
    · exact .inl ⟨hd, by simp [ctPoll, h, hd, CtCtx.raise]⟩
    · exact .inr ⟨BitVec.not_le.mp hd, by simp [ctPoll, h, hd]⟩

/-- A poll of a clock that holds an answer before the deadline reads it once and raises nothing (R127). -/
theorem ctPoll_before {α : Type} {c : CtCtx} {now : Micros} (p : CtPhase) (hs : ClockSteady c.io now)
    (h : now < c.x.deadline) :
    ctPoll (α := α) c p =
      (.wait, { c with io := c.io.reads now 1, x := { c.x with xrCnt := 0, phase := p.receiving } }) := by
  simp only [ctPoll, hostClock_steady hs, if_neg (BitVec.not_le.mpr h)]

/-- A poll at or past the deadline ends in the timeout, raised once (R127, R135). -/
theorem ctPoll_after {α : Type} {c : CtCtx} {now : Micros} (p : CtPhase) (hs : ClockSteady c.io now)
    (h : c.x.deadline ≤ now) :
    ctPoll (α := α) c p =
      (.fail .transportTimeout, { c with io := (c.io.reads now 1).raise .transportTimeout }) := by
  simp only [ctPoll, hostClock_steady hs, if_pos h]
  rfl

/-- A clock that holds an answer still holds it after reads. -/
theorem clockSteady_reads {io : Io} {now : Micros} (h : ClockSteady io now) (k : Nat) :
    ClockSteady (io.reads now k) now := ⟨h.1, h.2.1, BitVec.le_refl _⟩

@[simp] theorem reads_reads (io : Io) (now : Micros) (j k : Nat) :
    (io.reads now j).reads now k = io.reads now (j + k) := by
  simp [Io.reads, Nat.add_assoc]

@[simp] theorem puts_reads (io : Io) (now : Micros) (k : Nat) (os : List Output) :
    (io.puts os).reads now k = (io.reads now k).puts os := rfl

@[simp] theorem puts_puts (io : Io) (os ps : List Output) : (io.puts os).puts ps = io.puts (os ++ ps) := by
  simp [Io.puts]

@[simp] theorem puts_nil (io : Io) : io.puts [] = io := by simp [Io.puts]

theorem emit_eq_puts (io : Io) (o : Output) : io.emit o = io.puts [o] := rfl

theorem raise_eq_puts (io : Io) (e : Event) : io.raise e = io.puts [.event e] := rfl

/-! ### The retry loops -/

theorem count_succ (a : BitVec 3) (n : Nat) : a + 1 + BitVec.ofNat 3 n = a + BitVec.ofNat 3 (n + 1) := by
  rw [BitVec.ofNat_add, BitVec.add_assoc, BitVec.add_comm (1 : BitVec 3)]
  rfl

/-- The failures a send loop repeats, then what it does with the answers left (R125). -/
theorem sendLoop_repeats (bytes : List Byte) (fails q : List SendAns) (hf : ∀ a ∈ fails, a ≠ .ok) :
    ∀ (left : Nat) (c : CtCtx), c.io.sendQ = fails ++ q →
      sendLoop bytes (left + fails.length) c = sendLoop bytes left { c with
        x := { c.x with xrCnt := c.x.xrCnt + BitVec.ofNat 3 fails.length }
        io := { c.io.puts (List.replicate fails.length (.tx bytes c.timeout)) with sendQ := q } } := by
  induction fails with
  | nil =>
    intro left c hq
    obtain ⟨cfg, cap, x, ⟨cl, sq, sr, rq, g, tr⟩⟩ := c
    simp only [List.nil_append] at hq
    subst hq
    simp [Io.puts]
  | cons a fails ih =>
    intro left c hq
    have ha : a ≠ .ok := hf a (by simp)
    obtain ⟨f, hfail⟩ : ∃ f, sendFail a = some f := by
      cases a with
      | ok => exact absurd rfl ha
      | timeout => exact ⟨_, rfl⟩
      | stall => exact ⟨_, rfl⟩
    simp only [List.cons_append] at hq
    rw [List.length_cons, ← Nat.add_assoc]
    simp only [sendLoop, rawSend, sendDraw, hq, hfail]
    rw [ih (fun b hb => hf b (by simp [hb])) left _ rfl]
    simp only [Io.puts, CtCtx.timeout, List.append_assoc, count_succ, List.replicate_succ, List.singleton_append]

/-- A send loop whose next answer is `Ok` (R125). -/
theorem sendLoop_ok {c : CtCtx} (bytes : List Byte) (left : Nat) (h : sendDraw c.io = some .ok) :
    sendLoop bytes left c = (.done (), { c with
      io := { c.io.puts [.tx bytes c.timeout] with sendQ := c.io.sendQ.tail } }) := by
  cases left <;> simp [sendLoop, rawSend, h, sendFail, Io.puts]

/-- A send loop with no repeat left ends in the error of its last failure, raised once (R125). -/
theorem sendLoop_fails {c : CtCtx} (bytes : List Byte) {a : SendAns} {f : RawFail} (h : sendDraw c.io = some a)
    (hf : sendFail a = some f) :
    sendLoop bytes 0 c = (.fail f.err, { c with
      io := { c.io.puts [.tx bytes c.timeout, .event f.event] with sendQ := c.io.sendQ.tail } }) := by
  simp [sendLoop, rawSend, h, hf, Io.puts, CtCtx.raise, Io.raise, Io.emit]

/-- A send loop without an answer waits at its send (R18). -/
theorem sendLoop_waits {c : CtCtx} (bytes : List Byte) (left : Nat) (h : sendDraw c.io = none) :
    sendLoop bytes left c = (.wait, c.at (.send bytes)) := by
  cases left <;> simp [sendLoop, rawSend, h]

/-- A send that succeeds at once (R125). -/
theorem ctSendr_ok {c : CtCtx} (bytes : List Byte) (h : sendDraw c.io = some .ok) :
    ctSendr c bytes = (.done (), { c with
      x := { c.x with xrCnt := 0 }
      io := { c.io.puts [.tx bytes c.timeout] with sendQ := c.io.sendQ.tail } }) := by
  unfold ctSendr
  rw [sendLoop_ok bytes _ (by exact h)]
  rfl

/-- The failures a receive loop repeats, then what it does with the answers left (R126). -/
theorem recvDrain_repeats (fails q : List RecvAns) (hf : ∀ a ∈ fails, a = .timeout ∨ a = .stall) :
    ∀ c : CtCtx, c.x.xrCnt.toNat + fails.length ≤ c.cfg.xportRetries → c.cfg.xportRetries ≤ 7 →
      recvDrain (fails ++ q) c = recvDrain q { c with
        x := { c.x with xrCnt := c.x.xrCnt + BitVec.ofNat 3 fails.length }
        io := c.io.puts (List.replicate fails.length (.rx c.timeout)) } := by
  induction fails with
  | nil =>
    intro c _ _
    simp [Io.puts]
  | cons a fails ih =>
    intro c hl h7
    simp only [List.length_cons] at hl
    have hlt : ¬ c.cfg.xportRetries ≤ c.x.xrCnt.toNat := by omega
    have hx : (c.x.xrCnt + 1).toNat = c.x.xrCnt.toNat + 1 := by
      have := c.x.xrCnt.isLt
      have h1 : (1 : BitVec 3).toNat = 1 := rfl
      simp only [BitVec.toNat_add, h1]
      omega
    let d : CtCtx := { c with x := { c.x with xrCnt := c.x.xrCnt + 1 }, io := c.io.emit (.rx c.timeout) }
    have step : recvDrain (a :: (fails ++ q)) c = recvDrain (fails ++ q) d := by
      rcases hf a (by simp) with rfl | rfl <;>
        simp [recvDrain, answerFits, recvAnswer, recvFailed, hlt, d]
    have hd : d.x.xrCnt.toNat + fails.length ≤ d.cfg.xportRetries := by
      show (c.x.xrCnt + 1).toNat + _ ≤ c.cfg.xportRetries
      omega
    rw [List.cons_append, step, ih (fun b hb => hf b (by simp [hb])) d hd h7]
    simp only [d, Io.puts, Io.emit, CtCtx.timeout, List.append_assoc, count_succ, List.length_cons,
      List.replicate_succ, List.singleton_append]

/-! ### A reply in one chunk -/

/-- A chunk that begins with a reply is scanned to its header (R128). -/
theorem ctScan_replyBytes (cap : Cap) (size op id status : Half) (data : List Byte) (h : 2 ≤ size.toNat) :
    ctScan cap (replyBytes cap.magicD2H size op id status data) = (.hdr ⟨0, size, op, id⟩, none) := by
  have hp : findPair (magicLo cap) (magicHi cap) (replyBytes cap.magicD2H size op id status data) = some 0 := by
    simp [replyBytes, halfBytes, findPair, magicLo, magicHi]
  have hl : ¬ (replyBytes cap.magicD2H size op id status data).length - 0 < Config.cmdHdrSize := by
    simp [replyBytes, halfBytes, Config.cmdHdrSize]
  simp only [ctScan, hp, if_neg hl]
  simp [replyBytes, halfBytes, halfAt, Nat.not_lt.mpr h]

/-- Within `BODY_MAX` the body grows by what is appended (R28, R130). -/
theorem bodyGrown_fits {c : CtCtx} {d : List Byte} (h : c.x.bodyLen.toNat + d.length ≤ c.cfg.bodyMax) :
    bodyGrown c d = { c with x := { c.x with
      body := c.x.body ++ d, bodyLen := BitVec.ofNat 16 (c.x.bodyLen.toNat + d.length) } } := by
  simp only [bodyGrown, if_pos h]

/-- Beyond it `BODY` has `BODY_MAX` bytes (R28, log entry 39). -/
theorem bodyGrown_beyond {c : CtCtx} {d : List Byte} (h : c.cfg.bodyMax < c.x.bodyLen.toNat + d.length) :
    (bodyGrown c d).x.body.length = c.cfg.bodyMax := by
  simp [bodyGrown, Nat.not_le.mpr h]

@[simp] theorem bodyGrown_bodyLen (c : CtCtx) (d : List Byte) :
    (bodyGrown c d).x.bodyLen = BitVec.ofNat 16 (c.x.bodyLen.toNat + d.length) := rfl
@[simp] theorem bodyGrown_io (c : CtCtx) (d : List Byte) : (bodyGrown c d).io = c.io := rfl
@[simp] theorem bodyGrown_cfg (c : CtCtx) (d : List Byte) : (bodyGrown c d).cfg = c.cfg := rfl
@[simp] theorem bodyGrown_cap (c : CtCtx) (d : List Byte) : (bodyGrown c d).cap = c.cap := rfl

/-- The body of a reply that lies whole in its first chunk is gathered without a receive (R130). -/
theorem gatherStart_replyBytes (c : CtCtx) (op id status : Half) (data : List Byte) (h : 2 + data.length < 65536)
    (hb : 2 + data.length ≤ c.cfg.bodyMax) (o i : Half) :
    gatherStart c (replyBytes c.cap.magicD2H (BitVec.ofNat 16 (2 + data.length)) op id status data)
        ⟨0, BitVec.ofNat 16 (2 + data.length), o, i⟩ =
      (.done (halfBytes status ++ data), { c with x := { c.x with
        body := halfBytes status ++ data, bodyLen := BitVec.ofNat 16 (2 + data.length) } }) := by
  have hz : (BitVec.ofNat 16 (2 + data.length)).toNat = 2 + data.length := by
    simp only [BitVec.toNat_ofNat]; omega
  simp only [gatherStart, gatherNext, hz, Config.cmdHdrSize]
  have hd : (replyBytes c.cap.magicD2H (BitVec.ofNat 16 (2 + data.length)) op id status data).drop (0 + 8) =
      halfBytes status ++ data := by simp [replyBytes, halfBytes]
  have ht : (halfBytes status ++ data).take (2 + data.length) = halfBytes status ++ data :=
    List.take_of_length_le (by simp [halfBytes]; omega)
  have hl : (halfBytes status ++ data).length = 2 + data.length := by simp [halfBytes]; omega
  rw [hd, ht, bodyGrown_fits (by simpa [hl] using hb), hl]
  simp

/-- The status word of a body (R131). -/
theorem ctStatus_body (status : Half) (data : List Byte) :
    ctStatus (halfBytes status ++ data) = statusResult status data := by
  simp [ctStatus, halfBytes, halfAt]

/-- The table of R99. -/
theorem statusResult_ack (data : List Byte) : statusResult 0 data = (.ok data, none) := rfl

theorem statusResult_notReady (data : List Byte) :
    statusResult 0x000D data = (.err .deviceNotReady, some .deviceNotReady) := rfl

theorem statusResult_rejected {status : Half} (data : List Byte) (h0 : status ≠ 0) (h1 : status ≠ 0x000D) :
    statusResult status data = (.err (.deviceRejected (nackName status) status),
      some (.deviceRejected (nackName status) status)) := by
  simp only [statusResult]
  rw [if_neg h0, if_neg h1]

/-- What a matching reply, whole in its chunk, makes of an exchange (R127 to R131). -/
theorem chunkArrived_reply (c : CtCtx) (status : Half) (data : List Byte) (h : 2 + data.length < 65536)
    (hb : 2 + data.length ≤ c.cfg.bodyMax) :
    chunkArrived c (replyBytes c.cap.magicD2H (BitVec.ofNat 16 (2 + data.length)) c.x.reqOp c.x.reqId status data) =
      (.done (statusResult status data).1,
        { c with x := { c.x with body := halfBytes status ++ data, bodyLen := BitVec.ofNat 16 (2 + data.length) }
                 io := c.io.raiseSome (statusResult status data).2 }) := by
  have hz : 2 ≤ (BitVec.ofNat 16 (2 + data.length)).toNat := by simp only [BitVec.toNat_ofNat]; omega
  simp only [chunkArrived, ctScan_replyBytes _ _ _ _ _ _ hz, mismatch, CtCtx.raiseSome, Io.raiseSome,
    ctMatch, ne_eq, not_true_eq_false, if_false, if_true]
  rw [gatherStart_replyBytes _ _ _ _ _ h hb]
  simp only [gathered, ctStatus_body, CtCtx.raiseSome]
  rfl

end Sys2Proof.Machine
end

