-- ==== Sys2Proof/Tests/Slice0.lean ====
section
/-! SUPPORT. The model's own tests: a refused term for each well-formedness check, the decoding of words written out from
the spec's encodings, one or two small steps for each operation with results taken from the spec, and for each obligation
with hypotheses a concrete state and operands that meet them (`test_witness_<name>`). -/

namespace Sys2Proof.Tests

open Sys2Proof Sys2Proof.Machine

/-! ### Small states -/

/-- A field of the next state, none where there is none. -/
def after {α : Type} (o : Outcome) (f : State → α) : Option α :=
  match o with
  | .next t => some (f t)
  | .fault _ => none
  | .refused _ => none

/-- A field of a stream's record in the next state. -/
def streamAfter {α : Type} (o : Outcome) (sid : Nat) (f : Stream → α) : Option α :=
  match o with
  | .next t => (t.streams[sid]?).map f
  | .fault _ => none
  | .refused _ => none

/-- A capability record with the reference magics of R93, every opcode valid but 9. -/
def caps : Cap :=
  { hdrVariant := 0, magicH2D := 0x4D47, magicD2H := 0x4252, maxPkt := 512, opValid := ⟨true, [(9, false)]⟩
    opTimeout := ⟨1000, []⟩, opDelay := ⟨0, [(2, 50)]⟩, sofTsPad := true }

/-- A pass-through configuration of 2 x 2 samples of 2 bytes, timed by the host clock. -/
def conf : StreamConfig :=
  { typeSof := 0x7100, typeEof := 0x7500, codec := .pass, lutEn := false, xRes := 2, yRes := 2, cropEn := false
    cropX := 0, cropY := 0, cropW := 0, cropH := 0, pixBytes := 2, tsMode := .hostOnly, ignoreBytes := 0, outCap := 8 }

/-- An armed stream whose parser seeks. -/
def seeking : Stream := { Stream.reset with conf := conf, cfgValid := true, pstate := .seekingMagic }

/-- An armed stream that reads a packet of the given class, `left` payload bytes to go. -/
def reading (type : Half) (left : Half) : Stream :=
  { seeking with
    pstate := .readingData, hdr := tableCells 0 (headerBytes 0x4252 type 3 left 0x00050003), hdrCnt := 12
    dataLeft := left }

/-- Ports with a steady clock. -/
def ports (now : Micros) : Io := { Io.quiet with clock := ⟨[], some now, 5000000, 1⟩ }

/-- A connected block with a clock reference and one stream besides a stopped one. -/
def linked (st : Stream) : State :=
  { State.reset with
    capValid := true, cap := caps, nextId := 7, ref := ⟨true, 1000, 5000000⟩, streams := [st, Stream.reset]
    io := ports 5005100 }

/-- The exchange of opcode 2, id 7, in its first attempt. -/
def waiting : Exchange :=
  { owner := .ci 0, reqOp := 2, reqId := 7, reqFrame := [0x47, 0x4D, 0, 0, 2, 0, 7, 0], nrCnt := 0, xrCnt := 0
    deadline := 6000000, rxBuf := [], body := [], bodyLen := 0, phase := .reply }

/-- A block with that exchange in flight. -/
def inFlight : State :=
  { linked Stream.reset with nextId := 8, cmdLock := some (.ci 0), exchange := some waiting }

/-- An unpacking configuration. -/
def unpacking (c : Codec) (cap : Word) : Stream :=
  { seeking with conf := { conf with codec := c, outCap := cap } }

/-- A small configuration for the calibration: 5 codes of depth `2c`, depths to 8, no-data 99. -/
def smallCfg : Cfg :=
  { Config.ref with maxCode := 5, maxDepth := 8, noData := 99, depthOf := .affine 0 2 }

/-! ### Well-formedness: each check refuses -/

theorem test_wf_stream : (Instr.prStop .host 2).check Config.ref = some .noSuchStream := by decide
theorem test_wf_stream_ok : (Instr.prStop .host 1).wellFormed Config.ref := by decide
theorem test_wf_position : (Instr.prData 0 [1, 2] 2).check Config.ref = some .positionPastEnd := by decide
theorem test_wf_payload : (Instr.ctFrame 1 2 (List.replicate 65536 0)).check Config.ref = some .payloadTooLong := by
  rw [Instr.check]
  show (if (List.replicate 65536 (0 : Byte)).length < 65536 then none else some IllFormed.payloadTooLong) = _
  rw [List.length_replicate, if_neg (Nat.lt_irrefl _)]
theorem test_wf_piece : (Instr.bdFeed 0 []).check Config.ref = some .emptyPiece := by decide
theorem test_wf_header : (Instr.ctGather [1, 2] ⟨0, 4, 2, 7⟩).check Config.ref = some .badReplyHeader := by decide
theorem test_wf_status : (Instr.ctStatus [0]).check Config.ref = some .noStatus := by decide
theorem test_wf_element : (Instr.bdElement 0 [1, 2, 3] .list).check Config.ref = some .notAnElement := by decide
theorem test_wf_code : (Instr.bdMap 0 4096).check Config.ref = some .notACode := by decide

/-! ### Decoding of words written out (R91, R92, R97, R107, R108) -/

theorem test_decode_ctConnect : decodeTableWord 8 0x01 = some (.ctConnect .host ⟨0, 0, 0⟩ []) := by decide
theorem test_decode_ctDisconnect : decodeTableWord 8 0x02 = some (.ctDisconnect .host) := by decide
theorem test_decode_ctExec : decodeTableWord 8 0x03 = some (.ctExec (.ci 0) 0 []) := by decide
theorem test_decode_prConfigure : decodeTableWord 8 0x10 = some (.prConfigure .host 0 StreamConfig.zero) := by decide
theorem test_decode_prArm : decodeTableWord 8 0x11 = some (.prArm .host 0) := by decide
theorem test_decode_prStop : decodeTableWord 8 0x12 = some (.prStop .host 0) := by decide
theorem test_decode_bdCalibrate :
    decodeTableWord 8 0x20 = some (.bdCalibrate .host 0 CalRecord.zero 0 0) := by decide
theorem test_decode_bdReadtable : decodeTableWord 8 0x21 = some (.bdReadtable .host 0 .s2d 0) := by decide
theorem test_decode_bdUnpack : decodeTableWord 8 0x22 = some (.bdUnpack .host 0 []) := by decide
theorem test_decode_csTohost : decodeTableWord 8 0x30 = some (.csTohost (.rd 0) 0 0) := by decide
theorem test_decode_csHostonly : decodeTableWord 8 0x31 = some (.csHostonly (.rd 0) 0) := by decide
theorem test_decode_unknown : decodeTableWord 8 0x04 = none := by decide
theorem test_decode_prChunk :
    decode DecodeCtx.ref (.input (.chunk 1 [0x52, 0x42])) = .ok (.prChunk 1 [0x52, 0x42]) := rfl
theorem test_decode_hwReset : decode DecodeCtx.ref (.input .reset) = .ok .hwReset := rfl
theorem test_decode_pktData :
    decodeTableWord 96 0x112233440003010272004252 = some (.pktData 0 0x7200 0x0102 3 0x11223344) := by decide
theorem test_decode_pktSof : decodeTableWord 96 0x000500030000000071004252 = some (.pktSof 0 0 0 0x00050003) := by
  decide
theorem test_decode_pktEof : decodeTableWord 96 0x0000002A0002000975004252 = some (.pktEof 0 9 2 0x2A) := by decide
theorem test_decode_badMagic : decodeTableWord 96 0x0000002A0002000975004251 = none := by decide
theorem test_decode_ctFrame : decodeTableWord 64 0x0007000200024D47 = some (.ctFrame 2 7 [0, 0]) := by decide
theorem test_decode_rspAck : decodeTableWord 80 0x00000007000200024252 = some (.rspAck 2 2 7 []) := by decide
theorem test_decode_rspNackCrc : decodeTableWord 80 0x00030007000200024252 = some (.rspNackCrc 2 2 7 []) := by decide
theorem test_decode_rspNackBadParams :
    decodeTableWord 80 0x00050007000200024252 = some (.rspNackBadParams 2 2 7 []) := by decide
theorem test_decode_rspNackFileNotFound :
    decodeTableWord 80 0x00070007000200024252 = some (.rspNackFileNotFound 2 2 7 []) := by decide
theorem test_decode_rspNackNotReady :
    decodeTableWord 80 0x000D0007000200024252 = some (.rspNackNotReady 2 2 7 []) := by decide
theorem test_decode_rspNackOverflow :
    decodeTableWord 80 0x000E0007000200024252 = some (.rspNackOverflow 2 2 7 []) := by decide
theorem test_decode_rspNackFsLocked :
    decodeTableWord 80 0x00100007000200024252 = some (.rspNackFsLocked 2 2 7 []) := by decide
theorem test_decode_rspNackOther :
    decodeTableWord 80 0x00040007000200024252 = some (.rspNackOther 2 2 7 4 []) := by decide

/-! ### The step -/

/-- The state with one transaction to come. -/
def next1 (s : State) (t : Transaction) : State := { s with stimuli := [.port t] }

theorem test_step_runs : after (step (next1 (linked seeking) (.hostop .host 0x12 HostArgs.zero))) (fun t => t.ret) =
    some .ok := by decide
/-- R100, R173: a header with another magic is its bytes to the parser. -/
theorem test_step_badMagic :
    after (step (next1 (linked seeking) (.packet 0 0x000000090004000372004253))) (fun t => (t.ret, t.held)) =
    some (.none, []) := by decide
/-- R100, R128: a reply cut short is an answer, which no exchange waits for here. -/
theorem test_step_cutReply :
    after (step (next1 (linked seeking) (.reply [0x52, 0x42, 2]))) (fun t => t.io.recvQ) =
    some [.data [0x52, 0x42, 2]] := by decide
/-- Both words stand for the very next step: an input as a stimulus, the request frame as its operation. -/
theorem test_fetchWord :
    after (step ((linked seeking).withFetchWord 8 0x12)) (fun t => t.ret) = some .ok ∧
    after (step ((linked seeking).withFetchWord 64 0x0007000200024D47)) (fun t => t.ret) =
      some (.bytes [0x47, 0x4D, 2, 0, 2, 0, 7, 0, 0, 0]) := by decide
theorem test_step_idle : step State.reset = .next State.reset := rfl
theorem test_step_refuses : (step (next1 State.reset (.hostop .host 0x04 HostArgs.zero))) =
    .refused (.undecodable (.unknownSelector 0x04)) := rfl

/-! ### Command transport -/

/-- R121: the row with the greatest threshold not above the version; `NEXT_ID` starts at 0. -/
theorem test_ctConnect :
    after (exec (.ctConnect .host ⟨5, 3, 0⟩ [⟨⟨1, 0, 0⟩, caps⟩, ⟨⟨5, 2, 9⟩, { caps with maxPkt := 64 }⟩,
      ⟨⟨5, 4, 0⟩, caps⟩]) State.reset) (fun t => (t.ret, t.cap.maxPkt, t.nextId, t.capValid)) =
    some (.ok, 64, 0, true) := by decide
/-- On a connected block, and with a stream armed. -/
theorem test_ctDisconnect :
    after (exec (.ctDisconnect .host) (linked Stream.reset)) (fun t => (t.ret, t.capValid, t.ref.valid, t.nextId)) =
      some (.ok, false, false, 7) ∧
    after (exec (.ctDisconnect .host) (linked seeking)) (fun t => t.ret) = some .refused := by decide
/-- R149: it waits for no conversion, which then goes on with the reference it has. -/
theorem test_ctDisconnect_timing :
    after (exec (.ctDisconnect .host) (linked { seeking with
      pstate := .awaitingConfiguration, job := some ⟨⟨.hostonly, .clock⟩, .asked (some (.rd 0))⟩ }))
      (fun t => (t.ret, after (t.resumeReader 0) (fun u => u.ret))) = some (.ok, some (.time 5100)) := by decide
/-- R107's exchange: opcode 2, id 7, payload `01 00`, reply data `2A 00`. -/
theorem test_ctExec :
    after (exec (.ctExec (.ci 0) 2 [0x01, 0x00]) { linked Stream.reset with
      io := { ports 5005100 with
        recvQ := [.data [0x52, 0x42, 0x04, 0x00, 0x02, 0x00, 0x07, 0x00, 0x00, 0x00, 0x2A, 0x00]] } })
      (fun t => (t.ret, t.nextId, t.io.trace)) =
    some (.exec (.ok [0x2A, 0x00]), 8,
      [.tx [0x47, 0x4D, 0x02, 0x00, 0x02, 0x00, 0x07, 0x00, 0x01, 0x00] 1000, .rx 1000, .delay 50,
        .result (.ci 0) (.exec (.ok [0x2A, 0x00]))]) := by decide
theorem test_ctExec_unsupported :
    after (exec (.ctExec (.ci 0) 9 []) (linked Stream.reset)) (fun t => (t.ret, t.nextId)) =
    some (.exec (.err .unsupportedOpcode), 7) := by decide
theorem test_ctFrame : after (exec (.ctFrame 2 7 [0x01, 0x00]) (linked Stream.reset)) (fun t => t.ret) =
    some (.bytes [0x47, 0x4D, 0x02, 0x00, 0x02, 0x00, 0x07, 0x00, 0x01, 0x00]) := by decide
/-- R125: two failures, then success: three raw sends, no event. -/
theorem test_ctSendr :
    after (exec (.ctSendr [5]) { inFlight with io := { inFlight.io with sendQ := [.stall, .timeout, .ok] } })
      (fun t => (t.ret, t.io.trace)) = some (.ok, [.tx [5] 1000, .tx [5] 1000, .tx [5] 1000]) := by decide
theorem test_ctRecvr :
    after (exec .ctRecvr { inFlight with io := { inFlight.io with recvQ := [.stall, .data [1, 2]] } })
      (fun t => (t.ret, t.exchange.map (·.rxBuf))) = some (.bytes [1, 2], some [1, 2]) := by decide
theorem test_ctAttempt :
    after (exec .ctAttempt { inFlight with io := { inFlight.io with
      recvQ := [.data (replyBytes 0x4252 2 2 7 3 [])] } }) (fun t => t.ret) =
    some (.exec (.err (.deviceRejected .crcMismatch 3))) := by decide
/-- R128: garbage before the magic is skipped. -/
theorem test_ctScan :
    after (exec (.ctScan ([0x52, 0x52] ++ replyBytes 0x4252 4 2 7 0 [1, 2])) (linked Stream.reset)) (fun t => t.ret) =
    some (.scan (.hdr ⟨2, 4, 2, 7⟩)) := by decide
/-- A header cut short; a declared body above `BODY_MAX` is no concern of `CT.SCAN`. -/
theorem test_ctScan_corners :
    after (exec (.ctScan [0x52, 0x42, 0, 0]) (linked Stream.reset)) (fun t => (t.ret, t.io.trace)) =
      some (.scan .malformed, [.event (.protocolMismatch .truncated)]) ∧
    after (exec (.ctScan (replyBytes 0x4252 3 2 7 0 [1])) { linked Stream.reset with
      cfg := { Config.ref with bodyMax := 2 } }) (fun t => (t.ret, t.io.trace)) =
      some (.scan (.hdr ⟨0, 3, 2, 7⟩), []) := by decide
theorem test_ctMatch : after (exec (.ctMatch ⟨0, 2, 2, 6⟩) inFlight) (fun t => (t.ret, t.io.trace)) =
    some (.flag false, [.event (.protocolMismatch .id)]) := by decide
theorem test_ctGather :
    after (exec (.ctGather (replyBytes 0x4252 5 2 7 0 [1]) ⟨0, 5, 2, 7⟩)
      { inFlight with io := { inFlight.io with recvQ := [.data [2, 3, 4]] } }) (fun t => t.ret) =
    some (.bytes [0, 0, 1, 2, 3]) := by decide
/-- A body of 3 bytes where `BODY_MAX` is 2 (log entry 39): gathered whole, counted whole, two bytes held. -/
theorem test_ctGather_long :
    after (exec (.ctGather (replyBytes 0x4252 3 2 7 0 [1]) ⟨0, 3, 2, 7⟩)
      { inFlight with cfg := { Config.ref with bodyMax := 2 } })
      (fun t => t.exchange.map fun x => (x.body.length, x.bodyLen)) = some (some (2, 3)) := by decide
theorem test_ctStatus : after (exec (.ctStatus [0x10, 0, 9]) inFlight) (fun t => t.ret) =
    some (.exec (.err (.deviceRejected .fileSystemLocked 0x10))) := by decide
theorem test_rspAck : after (exec (.rspAck 3 2 7 [9]) inFlight) (fun t => (t.ret, t.cmdLock)) =
    some (.exec (.ok [9]), none) := by decide
theorem test_rspNackCrc : after (exec (.rspNackCrc 2 2 7 []) inFlight) (fun t => t.ret) =
    some (.exec (.err (.deviceRejected .crcMismatch 3))) := by decide
theorem test_rspNackBadParams : after (exec (.rspNackBadParams 2 2 7 []) inFlight) (fun t => t.ret) =
    some (.exec (.err (.deviceRejected .badParameters 5))) := by decide
theorem test_rspNackFileNotFound : after (exec (.rspNackFileNotFound 2 2 7 []) inFlight) (fun t => t.ret) =
    some (.exec (.err (.deviceRejected .fileNotFound 7))) := by decide
theorem test_rspNackNotReady :
    after (exec (.rspNackNotReady 2 2 7 []) inFlight) (fun t => (t.ret, t.exchange.map (·.nrCnt))) =
    some (.waiting, some 1) := by decide
theorem test_rspNackOverflow : after (exec (.rspNackOverflow 2 2 7 []) inFlight) (fun t => t.ret) =
    some (.exec (.err (.deviceRejected .overflow 14))) := by decide
theorem test_rspNackFsLocked : after (exec (.rspNackFsLocked 2 2 7 []) inFlight) (fun t => t.ret) =
    some (.exec (.err (.deviceRejected .fileSystemLocked 16))) := by decide
theorem test_rspNackOther : after (exec (.rspNackOther 2 2 7 4 []) inFlight) (fun t => t.ret) =
    some (.exec (.err (.deviceRejected .other 4))) := by decide
theorem test_hwReset : after (exec .hwReset inFlight) (fun t => (t.exchange, t.cmdLock, t.capValid)) =
    some (none, none, false) := by decide

/-! ### Packet reassembler -/

theorem test_prConfigure :
    streamAfter (exec (.prConfigure .host 1 { conf with outCap := 9 }) (linked seeking)) 1
      (fun st => (st.conf.outCap, st.cfgValid)) = some (9, true) := by decide
theorem test_prConfigure_refused :
    after (exec (.prConfigure .host 1 { conf with codec := .xform }) (linked seeking)) (fun t => t.ret) =
    some .refused := by decide
theorem test_prArm :
    streamAfter (exec (.prArm .host 0) (linked { Stream.reset with
      conf := { conf with ignoreBytes := 10 }, cfgValid := true, lastSeq := 5 })) 0
      (fun st => (st.pstate, st.ignLeft, st.lastSeq)) = some (.ignoringGarbage, 10, 0) := by decide
theorem test_prStop :
    streamAfter (exec (.prStop .host 0) (linked (reading 0x7500 4))) 0 (fun st => (st.pstate, st.hdrCnt, st.dataLeft)) =
    some (.awaitingConfiguration, 0, 0) := by decide
/-- A whole frame in one chunk: 2 leading samples, 4 payload bytes, 0 trailing samples; committed with id 1. -/
theorem test_prChunk :
    after (exec (.prChunk 0 (headerBytes 0x4252 0x7100 1 0 0x00020000 ++ headerBytes 0x4252 0x7200 2 4 9 ++ [1, 2, 3, 4] ++
      headerBytes 0x4252 0x7500 3 0 9)) (linked seeking)) (fun t => t.io.trace.getD 5 (.delay 0)) =
    some (.commit 0 ⟨1, 5100, 8, [0, 0, 0, 0, 1, 2, 3, 4], false, false, false, false⟩) := by decide
theorem test_prChunk_empty : after (exec (.prChunk 0 []) (linked seeking)) (fun t => t.streams) =
    some (linked seeking).streams := by decide
/-- R180: 5 leading samples do not fit 8 bytes. -/
theorem test_pktSof :
    streamAfter (exec (.pktSof 0 1 4 0x00050003) (linked seeking)) 0 (fun st => (st.drop, st.corrupt, st.trailPad)) =
    some (true, true, 3) := by decide
theorem test_pktEof : streamAfter (exec (.pktEof 0 1 0 7) (linked seeking)) 0 (fun st => (st.frameId, st.pstate)) =
    some (1, .seekingMagic) := by decide
/-- R178: `LAST_SEQ = 0`, id 5: a loss. -/
theorem test_pktData :
    streamAfter (exec (.pktData 0 0x7200 5 3 7) (linked seeking)) 0
      (fun st => (st.lossMark, st.lastSeq, st.dataLeft, st.pktTime)) = some (true, 5, 3, 5100) := by decide
theorem test_prDiscard : after (exec (.prDiscard 1 [1, 2, 3] 1) (linked seeking)) (fun t => t.ret) =
    some (.pos 3) := by decide
/-- R172: 6 of 20 bytes are dropped, the scan begins at byte 6. -/
theorem test_prIgnore :
    after (exec (.prIgnore 0 (List.replicate 20 0) 0) (linked { seeking with pstate := .ignoringGarbage, ignLeft := 6 }))
      (fun t => t.ret) = some (.pos 6) := by decide
theorem test_prSeek :
    streamAfter (exec (.prSeek 0 [0x42] 0) (linked { seeking with magicHalf := true })) 0
      (fun st => (st.pstate, st.hdrCnt, st.hdr)) = some (.readingHeader, 2, [(0, 0x52), (1, 0x42)]) := by decide
theorem test_prSeek_half :
    streamAfter (exec (.prSeek 0 [0x52] 0) (linked { seeking with magicHalf := true })) 0
      (fun st => (st.pstate, st.magicHalf)) = some (.seekingMagic, true) := by decide
theorem test_prHdr :
    streamAfter (exec (.prHdr 0 [9, 0x00, 0x72, 0x02] 1) (linked { seeking with
      pstate := .readingHeader, hdr := [(0, 0x52), (1, 0x42)], hdrCnt := 2 })) 0 (fun st => (st.hdrCnt, st.hdr)) =
    some (5, [(0, 0x52), (1, 0x42), (2, 0x00), (3, 0x72), (4, 0x02)]) := by decide
theorem test_prData :
    streamAfter (exec (.prData 0 [7, 8, 9] 1) (linked (reading 0x7200 4))) 0
      (fun st => (st.outLen, st.out, st.dataLeft, st.dataOff)) = some (2, [(0, 8), (1, 9)], 2, 2) := by decide
theorem test_prPktend : streamAfter (exec (.prPktend 0) (linked (reading 0x7200 4))) 0 (fun st => (st.pstate, st.hdrCnt)) =
    some (.seekingMagic, 0) := by decide
theorem test_prPktstart :
    streamAfter (exec (.prPktstart 0) (linked (reading 0x7100 4))) 0 (fun st => (st.lossFirst, st.lossMark, st.lastSeq)) =
    some (true, true, 3) := by decide
theorem test_prLosschk :
    after (exec (.prLosschk 0) (linked { reading 0x7200 4 with lastSeq := 2 })) (fun t => t.ret) =
    some (.flag false) := by decide
theorem test_prLosschk_repeat :
    after (exec (.prLosschk 0) (linked { reading 0x7200 4 with lastSeq := 3 })) (fun t => (t.ret, t.io.trace)) =
    some (.flag true, [.event (.packetLoss 0 4 3)]) := by decide
/-- R180: `ts = 0x00050003`, 16-bit samples: 10 bytes, `TRAIL_PAD = 3`. -/
theorem test_prSof :
    streamAfter (exec (.prSof 0) (linked { reading 0x7100 4 with conf := { conf with outCap := 80 } })) 0
      (fun st => (st.outLen, st.trailPad)) = some (10, 3) := by decide
/-- R180: with `SOF_TS_PAD = 0` the pseudocode reads no header field, so none is needed. -/
theorem test_prSof_noPad :
    streamAfter (exec (.prSof 0) { linked { seeking with drop := true, trailPad := 3 } with
      cap := { caps with sofTsPad := false } }) 0 (fun st => (st.drop, st.trailPad)) = some (false, 0) := by decide
theorem test_prFramereset :
    streamAfter (exec (.prFramereset 0) (linked { seeking with corrupt := true, outLen := 1, out := [(0, 7)] })) 0
      (fun st => (st.corrupt, st.outLen, st.out)) = some (false, 0, []) := by decide
theorem test_prTime : streamAfter (exec (.prTime 0) (linked (reading 0x7200 4))) 0 (fun st => st.pktTime) =
    some 5100 := by decide
/-- R183: `OUT_CAP = 4`, `OUT_LEN = 3`, a 2-byte piece: overflow. -/
theorem test_prPiece :
    streamAfter (exec (.prPiece 0 [1, 2] 0) (linked { seeking with
      conf := { conf with outCap := 4 }, outLen := 3, out := tableCells 0 [1, 2, 3] })) 0
      (fun st => (st.outLen, st.drop)) = some (0, true) := by decide
theorem test_prEof :
    after (exec (.prEof 0) (linked seeking)) (fun t => t.io.trace.head?) =
    some (some (.event (.frameCorrupted 0))) := by decide
/-- R185: `k = 3`, 2-byte samples. -/
theorem test_prPad : streamAfter (exec (.prPad 0 3) (linked seeking)) 0 (fun st => (st.outLen, st.out.length)) =
    some (6, 6) := by decide
theorem test_prOverflow : after (exec (.prOverflow 0) (linked seeking)) (fun t => t.io.trace) =
    some [.event (.outputBufferOverflow 0)] := by decide
theorem test_prPublish :
    after (exec (.prPublish 0) (linked { seeking with outLen := 1, out := [(0, 7)], frameId := 3 }))
      (fun t => t.io.trace.head?) = some (some (.commit 0 ⟨3, 0, 1, [7], false, false, false, false⟩)) := by decide

/-! ### Clock synchronizer -/

/-- The stream of R211's example. -/
def synced : Stream :=
  { seeking with syFirst := false, syLref := 1000, syTotal := 0, syLastTick := 1000, syLastRes := 0 }

theorem test_csTohost :
    after (exec (.csTohost (.rd 0) 0 301000) (linked synced)) (fun t => t.ret) = some (.time 5000) := by decide
/-- R221 (d): the same tick twice resynchronizes. R211: a zero tick met before any reference asks for no lock. -/
theorem test_csTohost_corners :
    after (exec (.csTohost (.rd 0) 0 301000) (linked { synced with syLastTick := 301000, syLastRes := 5000 }))
      (fun t => (t.ret, t.io.trace.head?)) = some (.time 5000, some (.event (.clockDesync 0))) ∧
    after (exec (.csTohost (.rd 0) 0 0) { linked synced with ref := ⟨false, 0, 0⟩, clkLock := some (.rd 1) })
      (fun t => t.ret) = some (.time 0) := by decide
/-- R219: reference 5000000, clock 5033333. -/
theorem test_csHostonly :
    after (exec (.csHostonly (.rd 0) 0) { linked synced with io := ports 5033333 }) (fun t => t.ret) =
    some (.time 33333) := by decide
theorem test_csEstablish :
    after (exec (.csEstablish ⟨0, 1007⟩) { linked synced with ref := ⟨false, 0, 0⟩ }) (fun t => t.ref) =
    some ⟨true, 1007, 5005100⟩ := by decide
/-- R212: the lock comes before the check of `REF_VALID`. -/
theorem test_csEstablish_locked :
    after (exec (.csEstablish ⟨0, 1007⟩) { linked synced with clkLock := some (.rd 1) }) (fun t => t.ret) =
    some .waiting := by decide
/-- R213: one wrap. -/
theorem test_csInit :
    after (exec (.csInit 0 205033704) { linked synced with io := ports 80000000 }) (fun t => t.ret) =
    some (.time 75000000) := by decide
/-- R221 (e): clamped. -/
theorem test_csInit_clamped :
    streamAfter (exec (.csInit 0 10) { linked synced with io := ports 5000000 }) 0 (fun st => st.syLastTick) =
    some 1000 := by decide
/-- R216: a wrap. -/
theorem test_csAdvance :
    after (exec (.csAdvance 0 0x100) (linked { synced with syLastTick := 0xFFFFFF00 })) (fun t => t.ret) =
    some (.time 71582775) := by decide
/-- R216 for a counter of 12 bits: 0x0100 after 0x0F00 is one wrap of 4096. -/
theorem test_csAdvance_12 :
    streamAfter (exec (.csAdvance 0 0x100) { linked { synced with syLastTick := 0xF00 } with
      cfg := { Config.ref with tickBits := 12 } }) 0 (fun st => (st.syTotal, st.syLastTick)) =
    some (4096, 0x100) := by decide
theorem test_csResync :
    after (exec (.csResync 0 301000) (linked synced)) (fun t => t.ret) = some (.time 5000) := by decide

/-! ### Bit depth codec -/

/-- A quotient of a depth formula is rounded down by a negative divisor too (log entry 20). -/
theorem test_depthExpr_quotient :
    depthExpr ⟨7, 2, 0, []⟩ 0 (.div .zpd (.sub (.const 0) .zpps)) = -4 ∧
    depthExpr ⟨7, 2, 0, []⟩ 0 (.div (.sub (.const 0) .zpd) .zpps) = -4 ∧
    depthExpr ⟨7, 2, 0, []⟩ 0 (.div .zpd .dcl) = 0 := by decide

/-- R245: `MAX_CODE = 2047`. -/
theorem test_bdMap : after (exec (.bdMap 0 2046) (linked seeking)) (fun t => t.ret) = some (.cell 2046) := by decide
theorem test_bdMap_noData : after (exec (.bdMap 0 2047) (linked seeking)) (fun t => t.ret) = some (.cell 0) := by decide
/-- R241: `01 02 .. 18` at width 12. -/
theorem test_bdElement :
    after (exec (.bdElement 0 ((List.range 24).map fun i => BitVec.ofNat 8 (i + 1)) .list) (linked (unpacking .unpack12 80)))
      (fun t => match t.ret with | .samples vs => vs.take 4 | _ => []) = some [0x010, 0x203, 0x040, 0x506] := by decide
/-- R247: `100 .. 115` at width 11. -/
theorem test_bdElement_11 :
    after (exec (.bdElement 0 [0x0C, 0x81, 0x94, 0x33, 0x06, 0x70, 0xD0, 0x1A, 0x43, 0x50, 0x6B, 0x0D, 0x81, 0xB4, 0x37,
      0x06, 0xF0, 0xE0, 0x1C, 0x43, 0x90, 0x73] .list) (linked (unpacking .unpack11 80))) (fun t => t.ret) =
    some (.samples [100, 101, 102, 103, 104, 105, 106, 107, 108, 109, 110, 111, 112, 113, 114, 115]) := by decide
theorem test_bdUnpack :
    after (exec (.bdUnpack (.ci 0) 0 (List.replicate 50 0)) (linked (unpacking .unpack12 80)))
      (fun t => match t.ret with | .unpacked n vs => (n, vs.length) | _ => (0, 0)) = some (48, 32) := by decide
/-- R243: 10 bytes carried, 38 fed: two elements, nothing left. -/
theorem test_bdFeed :
    streamAfter (exec (.bdFeed 0 (List.replicate 38 0)) (linked { unpacking .unpack12 80 with
      cont := tableCells 0 (List.replicate 10 0), contLen := 10 })) 0 (fun st => (st.outLen, st.contLen)) =
    some (64, 0) := by decide
/-- Samples of 32 bits: one element is 16 samples of 4 bytes. -/
theorem test_bdFeed_32 :
    streamAfter (exec (.bdFeed 0 (List.replicate 24 0)) { linked (unpacking .unpack12 200) with
      cfg := { Config.ref with sampleBits := 32 } }) 0 (fun st => st.outLen) = some 64 := by decide
/-- R251 with depths 0, 2, 4, 6, 8 and cutoffs 2 to 6: codes 1 to 3 are accepted. -/
theorem test_bdCalibrate :
    streamAfter (exec (.bdCalibrate .host 0 CalRecord.zero 2 6) { linked seeking with cfg := smallCfg }) 0
      (fun st => (st.s2d.map Prod.snd, st.d2s.map Prod.snd)) =
    some ([99, 2, 4, 6, 99], [0, 0, 1, 1, 2, 2, 3, 3, 3]) := by decide
theorem test_bdReadtable :
    after (exec (.bdReadtable .host 0 .d2s 1) { linked { seeking with calValid := true, d2s := [(0, 4), (1, 6)] } with
      cfg := { smallCfg with maxDepth := 1 } }) (fun t => t.ret) = some (.cell 6) := by decide
theorem test_bdReadtable_end :
    after (exec (.bdReadtable .host 0 .s2d 5) { linked { seeking with calValid := true } with cfg := smallCfg })
      (fun t => t.ret) = some .refused := by decide

/-! ### Witnesses of the obligations' hypotheses -/

theorem test_witness_DecodeEncode :
    encode DecodeCtx.ref (.pktData 1 0x7200 9 2 5) = some (.input (.packet 1 0x000000050002000972004252)) ∧
      encodable DecodeCtx.ref (.pktData 1 0x7200 9 2 5) = true := by decide

theorem test_witness_EncodeDecode :
    decode DecodeCtx.ref (.input (.reply [0x52, 0x42, 2, 0, 2, 0, 7, 0, 0, 0])) = .ok (.rspAck 2 2 7 []) := rfl

/-- Both ways in: nothing else can go on, and a reset with an operation held that could. -/
theorem test_witness_StepRunsDecoded :
    (let s := next1 (linked seeking) (.hostop .host 0x12 HostArgs.zero)
     cfgLegal s.cfg = true ∧ s.turn = some .stimulus ∧ (Instr.prStop .host 0).wellFormed s.cfg ∧
      s.busy (.prStop .host 0) = false) ∧
    (let s := { next1 (linked seeking) .reset with held := [.prStop .host 0] }
     cfgLegal s.cfg = true ∧ s.runnable = [0] ∧ Instr.hwReset.wellFormed s.cfg ∧ s.busy .hwReset = false) := by decide

/-- A stream whose chunk waits for the host clock, which has no answer. -/
def chunkWaiting : Stream :=
  { seeking with
    lock := some (.rd 0), job := some ⟨⟨.hostonly, .clock⟩, .parser (.chunk [1, 2])⟩, pstate := .readingHeader
    hdr := tableCells 0 (headerBytes 0x4252 0x7200 3 2 9), hdrCnt := 12 }

/-- A stopped stream whose reader agent waits for the host clock inside `CS.TOHOST`. -/
def timing : Stream :=
  { Stream.reset with syFirst := false, job := some ⟨⟨.tohost 301000, .clock⟩, .asked (some (.rd 0))⟩ }

/-- A block whose host clock has no answer. -/
def unanswered (st : Stream) : State :=
  { linked st with io := { ports 5005100 with clock := ⟨[], none, 5000000, 1⟩ } }

/-- Each turn, the only one there is: a busy agent's next command, an operation held, a command admitted, a conversion, an
exchange; and none. -/
theorem test_witness_StepTurns :
    (let s := next1 inFlight (.hostop (.ci 0) 0x03 HostArgs.zero)
     cfgLegal s.cfg = true ∧ s.turn = some .stimulus ∧ (Instr.ctExec (.ci 0) 0 []).wellFormed s.cfg ∧
      s.busy (.ctExec (.ci 0) 0 []) = true) ∧
    (let s := { linked seeking with held := [.prStop .host 0] }
     s.turn = some (.held 0) ∧ s.held[0]? = some (.prStop .host 0)) ∧
    (let s := { linked seeking with admitted := [⟨.ci 0, 2, []⟩] }
     s.turn = some (.admitted 0) ∧ s.admitted[0]? = some ⟨.ci 0, 2, []⟩) ∧
    (linked chunkWaiting).turn = some (.reader 0) ∧
    ({ inFlight with io := { inFlight.io with recvQ := [.stall] } } : State).turn = some .exchange ∧
    inFlight.turns = [] := by decide

/-- Each kind of supply as the next stimulus, an exchange that waits for another thing and one met by a chunk of one byte too
many; a clock with an answer below its last one. -/
theorem test_witness_EnvSupplies :
    (∀ x ∈ [Stimulus.clock [1] none, .send [.ok] none, .locks false, .recv [.stall]],
      ({ linked seeking with stimuli := [x] } : State).turn = some .stimulus) ∧
    (let y := { waiting with phase := .pollReply }
     let s := { unanswered Stream.reset with exchange := some y, stimuli := [.recv [.stall]] }
     s.turn = some .stimulus ∧ y.phase.receives = false) ∧
    (let s := { inFlight with stimuli := [.recv [.data (List.replicate 513 0)]] }
     s.turn = some .stimulus ∧ s.io.recvQ = [] ∧ s.cap.maxPkt.toNat < 513) ∧
    ({ ports 9 with clock := ⟨[4], none, 5, 1⟩ } : Io).clock.queue = [4] ∧ ClockSteady (ports 5005100) 5005100 ∧
    (unanswered seeking).io.clock.queue = [] ∧ (unanswered seeking).io.clock.rest = none := by decide

/-- A stopped stream is sound. -/
theorem stopped_sound (s : State) (sid : Nat) (h : s.clkLock ≠ some (.rd sid)) : StreamInv s sid Stream.reset where
  job := by simp [jobSound, Stream.reset, h]
  parser := ⟨rfl, fun _ => rfl, nofun, fun _ => rfl, fun _ _ => rfl, nofun, fun _ => ⟨rfl, rfl⟩, nofun⟩
  frame := ⟨rfl, rfl, Nat.le_refl _, fun _ => rfl, nofun, nofun, nofun, nofun, nofun, fun _ => ⟨rfl, rfl, rfl, rfl, rfl, rfl⟩⟩
  sync := nofun
  guard := ⟨nofun, fun hf => absurd rfl hf, nofun, fun _ => ⟨rfl, rfl⟩⟩

/-- A linked block is sound where its first stream is. -/
theorem linked_sound (st : Stream) (io : Io) (rest : List Stimulus) (h : StreamInv (linked st) 0 st)
    (hl : (5000000 : Micros) ≤ io.clock.last) : Inv { linked st with io := io, stimuli := rest } where
  cfg := by show cfgLegal Config.ref = true; decide
  count := rfl
  streams := fun sid x hx => by
    match sid with
    | 0 =>
      obtain rfl : st = x := by simpa [linked] using hx
      exact ⟨h.job, h.parser, h.frame, h.sync, h.guard⟩
    | 1 =>
      obtain rfl : Stream.reset = x := by simpa [linked] using hx
      exact stopped_sound _ _ nofun
    | sid + 2 => simp [linked] at hx
  cap := fun _ => by show caps.hdrVariant = 0 ∧ 10 ≤ caps.maxPkt.toNat; decide
  clkLock := nofun
  refHost := fun _ => ⟨hl, by show (1000 : Tick).toNat < 2 ^ Config.ref.tickBits; decide⟩
  exchange := nofun
  idle := fun _ => rfl
  admitted := nofun
  held := nofun

/-- An armed block with a chunk to come. -/
def chunkNext : State := { linked seeking with stimuli := [.port (.chunk 0 [0x52, 0x42])] }

theorem chunkNext_sound : Inv chunkNext :=
  linked_sound seeking _ _ ⟨by decide, by decide, by decide, by decide, by decide⟩ (by decide)

/-- An armed block whose stream has counted all the wraps 64 bits hold. -/
def worn : Stream :=
  { seeking with
    conf := { conf with tsMode := .device }, syFirst := false, syLref := 1000, syTotal := 0xFFFFFFFF00000000
    syLastTick := 1000 }

theorem worn_sound : StreamInv (linked worn) 0 worn := ⟨by decide, by decide, by decide, by decide, by decide⟩

/-- A block with a chunk that waits inside its packet's time conversion is sound too. -/
theorem chunkWaiting_sound : Inv (unanswered chunkWaiting) :=
  linked_sound chunkWaiting _ [] ⟨by decide, by decide, by decide, by decide, by decide⟩ (by decide)

theorem timing_sound : Inv (next1 (unanswered timing) (.hostop .host 0x02 HostArgs.zero)) :=
  linked_sound timing _ _ ⟨by decide, by decide, by decide, by decide, by decide⟩ (by decide)

/-- A step of a sound block; and a `CT.DISCONNECT` that takes a waiting conversion's reference away. -/
theorem test_witness_StepKeepsInv :
    (Inv chunkNext ∧
      after (step chunkNext) (fun t => t.streams.map (·.pstate)) = some [.readingHeader, .awaitingConfiguration]) ∧
    (let s := next1 (unanswered timing) (.hostop .host 0x02 HostArgs.zero)
     Inv s ∧ after (step s) (fun t => (t.ret, t.ref.valid, t.streams.map (·.syFirst))) = some (.ok, false, [true, true])) :=
  ⟨⟨chunkNext_sound, by decide⟩, timing_sound, by decide⟩

theorem test_witness_StepFaultsOnlyWidth :
    let s := { linked worn with stimuli := [.port (.hostop (.rd 0) 0x30 { HostArgs.zero with tick := 1000 })] }
    Inv s ∧ step s = .fault .outOf64Bits :=
  ⟨linked_sound worn _ _ worn_sound (by decide), by rfl⟩

theorem test_witness_ChunkCutIndependence : Inv chunkNext ∧ Unhindered chunkNext ∧
    (∀ st, chunkNext.streams[0]? = some st → st.job = none) ∧ [[0x52], [0x42]] ≠ ([] : List (List Byte)) ∧
    [[0x52, 0x42]] ≠ ([] : List (List Byte)) ∧
    ([[0x52], [0x42]] : List (List Byte)).flatten = ([[0x52, 0x42]] : List (List Byte)).flatten :=
  ⟨chunkNext_sound, by decide, fun st h => by obtain rfl : seeking = st := (by simpa [chunkNext, linked] using h); rfl,
    by decide, by decide, by decide⟩

/-- Both clock modes; the device mode with both its outcomes; and a chunk that is held behind one that waits. -/
theorem test_witness_PrChunkRuns :
    (Inv chunkNext ∧ chunkNext.streams[0]? = some seeking ∧ seeking.conf.tsMode = .hostOnly) ∧
    (Inv (linked worn) ∧ (linked worn).streams[0]? = some worn ∧ worn.conf.tsMode = .device ∧
      (after (exec (.prChunk 0 []) (linked worn)) (fun t => t.ret) = some .none) ∧
      exec (.pktData 0 0x7200 1 4 1000) (linked worn) = .fault .outOf64Bits) ∧
    Inv (unanswered chunkWaiting) :=
  ⟨⟨chunkNext_sound, rfl, rfl⟩, ⟨linked_sound worn _ [] worn_sound (by decide), rfl, rfl, by decide, by rfl⟩,
    chunkWaiting_sound⟩

theorem test_witness_frames :
    (Instr.prStop .host 0).stream? = some 0 ∧
    (after (exec (.prStop .host 0) (linked seeking)) (fun t => t.ret) = some .ok) ∧
    ([seeking, seeking])[0]? = (linked seeking).streams[0]? ∧
    (Instr.ctMatch ⟨0, 2, 2, 7⟩).stream? = none ∧ clearsReference (.ctMatch ⟨0, 2, 2, 7⟩) = false ∧
    (after (exec (.ctMatch ⟨0, 2, 2, 7⟩) inFlight) (fun t => t.ret) = some (.flag true)) ∧
    (after (exec (.ctDisconnect .host) (linked Stream.reset)) (fun t => t.ret) = some .ok) := by decide

/-- Each clause of `ConfigurationFrame`: another operation, and a configuration of an armed stream. -/
theorem test_witness_ConfigurationFrame :
    (after (exec (.prStop .host 0) (linked seeking)) (fun t => t.streams[0]?.isSome) = some true) ∧
    (after (exec (.prConfigure .host 0 conf) (linked seeking)) (fun t => t.ret) = some .refused) ∧
    seeking.pstate ≠ .awaitingConfiguration := by decide

/-- Each clause; a payload of one byte too many; a configuration that only a bound of log entry 25 takes out. -/
theorem test_witness_Refusals :
    (Agent.rd 0 ≠ .host ∧ codecOutOfDomain Config.ref .pass = false) ∧ (∀ k, Agent.host ≠ .ci k) ∧ Config.ref.nStreams ≤ 2 ∧
    Agent.rd 1 ≠ .rd 0 ∧
    ((next1 (linked seeking) (.hostop .host 0x00 HostArgs.zero)).turn = some .stimulus ∧
      (0x00 : Byte).toNat ∉ [0x01, 0x02, 0x03, 0x10, 0x11, 0x12, 0x20, 0x21, 0x22, 0x30, 0x31]) ∧
    (({ caps with maxPkt := 10 } : Cap).maxPkt.toNat < 8 + ([1, 2, 3] : List Byte).length) ∧
    codecOutOfDomain { Config.ref with maxCode := 2049 } .unpack11 = true ∧
    cfgLegal { Config.ref with notReadyRetries := 4 } = false :=
  ⟨by decide, nofun, by decide, by decide, by decide, by decide, by decide, by decide⟩

/-- The legal row at the threshold itself, and no legal row on a connected block. -/
theorem test_witness_CtConnectSelects :
    (let s := State.reset
     let r : CapRow := ⟨⟨1, 0, 0⟩, { caps with maxPkt := 10 }⟩
     s.capValid = false ∧ s.cmdLock = none ∧ (∀ st ∈ s.streams, st.pstate = .awaitingConfiguration) ∧
      [r].Pairwise (fun p q => p.threshold ≠ q.threshold) ∧ r ∈ [r] ∧ versionLe r.threshold ⟨1, 0, 0⟩ = true ∧
      (∀ q ∈ [r], versionLe q.threshold ⟨1, 0, 0⟩ = true → versionLe q.threshold r.threshold = true) ∧
      r.caps.hdrVariant = 0 ∧ 10 ≤ r.caps.maxPkt.toNat) ∧
    (linked Stream.reset).capValid ≠ false := by decide

theorem test_witness_CtDisconnect :
    ((linked Stream.reset).capValid = true ∧ (linked Stream.reset).cmdLock = none ∧
      ∀ st ∈ (linked Stream.reset).streams, st.pstate = .awaitingConfiguration) ∧
    State.reset.capValid ≠ true := by decide

theorem test_witness_CtExecUnsupported :
    State.reset.capValid = false ∧ opLookup (linked Stream.reset).cap.opValid 9 = false := by decide

/-- The largest payload that fits `MAX_PKT`, a steady clock, room for the deadline; with the replies each statement
takes. -/
def ready (replies : List RecvAns) : State :=
  { linked Stream.reset with cap := { caps with maxPkt := 11 }, io := { ports 5005100 with recvQ := replies } }

theorem test_witness_CtExec : ∀ replies ∈ [[], [RecvAns.data (replyBytes 0x4252 3 2 7 0 [9])],
      [RecvAns.data (replyBytes 0x4252 2 2 7 3 [])]] ++
      [List.replicate (Config.ref.notReadyRetries + 1) (RecvAns.data (replyBytes 0x4252 2 2 7 0x000D [])) ++ []],
    let s := ready replies
    s.capValid = true ∧ opLookup s.cap.opValid 2 = true ∧ 8 + ([1, 2, 3] : List Byte).length ≤ s.cap.maxPkt.toNat ∧
      10 + ([9] : List Byte).length ≤ s.cap.maxPkt.toNat ∧ 2 + ([9] : List Byte).length ≤ s.cfg.bodyMax ∧
      s.cmdLock = none ∧ s.io.grantLocks = true ∧
      ClockSteady s.io 5005100 ∧ 0 < (s.timeout 2).toNat ∧
      (5005100 : Micros).toNat + (s.timeout 2).toNat < 18446744073709551616 ∧ s.io.sendQ = [] ∧
      s.io.sendRest = some .ok ∧ sendDraw s.io = some .ok ∧
      s.cfg.notReadyRetries ≤ 3 ∧ s.io.recvQ = replies ∧ s.nextId = 7 ∧ s.cap.magicD2H = 0x4252 := by decide

/-- No clock answer, no send answer, no receive answer; a held lock, a withheld one; the admitted command's turn. -/
theorem test_witness_CtExecWaits :
    (hostClock (unanswered Stream.reset).io = none ∧ (unanswered Stream.reset).io.grantLocks = true) ∧
    (let io := { ports 5005100 with sendRest := none }
     ClockSteady io 5005100 ∧ sendDraw io = none) ∧
    (ready []).io.recvQ = [] ∧ inFlight.cmdLock ≠ none ∧ ({ ports 9 with grantLocks := false } : Io).grantLocks = false ∧
    (let s := { linked seeking with admitted := [⟨.ci 1, 2, []⟩] }
     s.turn = some (.admitted 0) ∧ s.admitted[0]? = some ⟨.ci 1, 2, []⟩ ∧ s.capValid = true ∧
      opLookup s.cap.opValid 2 = true) := by decide

/-- The largest payload, and one byte more. -/
theorem test_witness_CtFrame :
    8 + ([1, 2, 3] : List Byte).length ≤ (ready []).cap.maxPkt.toNat ∧
    (ready []).cap.maxPkt.toNat < 8 + ([1, 2, 3, 4] : List Byte).length := by decide

/-- At the retry bound, on both sides of it: five failures then success, five failures then a sixth, five and no answer. -/
theorem test_witness_CtSendr :
    let s := fun q => { inFlight with io := { inFlight.io with sendQ := q, sendRest := none } }
    let fails := List.replicate 5 SendAns.stall
    (s (fails ++ [.ok])).exchange = some waiting ∧ (∀ a ∈ fails, a ≠ .ok) ∧
      ([1] : List Byte).length ≤ (s []).cap.maxPkt.toNat ∧
      fails.length ≤ (s []).cfg.xportRetries ∧ fails.length = (s []).cfg.xportRetries ∧
      (after (exec (.ctSendr [1]) (s (fails ++ [.ok]))) (fun t => t.ret) = some .ok) ∧
      (after (exec (.ctSendr [1]) (s (fails ++ [.timeout]))) (fun t => t.ret) = some (.err .transportTimeout)) ∧
      (after (exec (.ctSendr [1]) (s fails)) (fun t => t.ret) = some .waiting) := by
  decide

theorem test_witness_CtRecvr :
    let s := fun q => { inFlight with io := { inFlight.io with recvQ := q } }
    let fails := List.replicate 5 RecvAns.timeout
    (s (fails ++ [.data []])).exchange = some waiting ∧ (∀ a ∈ fails, a = .timeout ∨ a = .stall) ∧
      (s []).cfg.xportRetries ≤ 7 ∧ fails.length = (s []).cfg.xportRetries ∧
      ([] : List Byte).length ≤ (s []).cap.maxPkt.toNat ∧
      (after (exec .ctRecvr (s (fails ++ [.data []]))) (fun t => t.ret) = some (.bytes [])) ∧
      (after (exec .ctRecvr (s (fails ++ [.stall]))) (fun t => t.ret) = some (.err .transportStall)) ∧
      (after (exec .ctRecvr (s fails)) (fun t => t.ret) = some .waiting) := by decide

/-- A stale reply before the good one; a second clock answer exactly at the deadline; a start too late for 64 bits. -/
theorem test_witness_CtAttempt :
    inFlight.exchange = some waiting ∧ sendDraw inFlight.io = some .ok ∧
    (5005100 : Micros).toNat + (inFlight.timeout 2).toNat < 18446744073709551616 ∧
    (ClockSteady inFlight.io 5005100 ∧ 0 < (inFlight.timeout 2).toNat ∧ (6 : Half) ≠ waiting.reqId ∧
      10 + ([9] : List Byte).length ≤ inFlight.cap.maxPkt.toNat) ∧
    (let s := { inFlight with io := { inFlight.io with
        clock := { inFlight.io.clock with queue := [5005100, 5006100] } } }
     s.io.clock.last ≤ 5005100 ∧ (5005100 : Micros) ≤ 5006100 ∧
      (5005100 : Micros).toNat + (s.timeout 2).toNat ≤ (5006100 : Micros).toNat ∧
      (after (exec .ctAttempt s) (fun t => t.ret) = some (.exec (.err .transportTimeout)))) ∧
    (let s := { inFlight with io := { inFlight.io with clock := ⟨[0xFFFFFFFFFFFFFFFF], none, 5000000, 1⟩ } }
     18446744073709551616 ≤ (0xFFFFFFFFFFFFFFFF : Micros).toNat + (s.timeout 2).toNat ∧
      s.io.clock.last ≤ 0xFFFFFFFFFFFFFFFF) := by decide

/-- The magic at offset 1 of four chunks: none, cut short by one byte, size 1, size 2; the exchange a header is matched
with. -/
theorem test_witness_CtScanMatch :
    (∀ i, i < 1 → ¬ MagicAt caps [0x42, 0x52] i) ∧
    (MagicAt caps [0, 0x52, 0x42, 2, 0, 2, 0, 7] 1 ∧ ([0, 0x52, 0x42, 2, 0, 2, 0, 7] : List Byte).length < 1 + 8) ∧
    (MagicAt caps [0, 0x52, 0x42, 1, 0, 2, 0, 7, 0] 1 ∧ (le16 1 0).toNat < 2) ∧
    (MagicAt caps [0, 0x52, 0x42, 2, 0, 2, 0, 7, 0] 1 ∧ 2 ≤ (le16 2 0).toNat) ∧
    (∀ i, i < 1 → ¬ MagicAt caps [0, 0x52, 0x42, 2, 0, 2, 0, 7, 0] i) ∧
    inFlight.exchange = some waiting ∧ waiting.reqId = 7 ∧ waiting.reqOp = 2 := by decide

/-- A body that ends exactly with its header's chunk, one that needs two more chunks, one whose time is up, one without an
answer of the clock. -/
theorem test_witness_CtGather :
    (inFlight.exchange = some waiting ∧ 0 + 8 ≤ (replyBytes 0x4252 3 2 7 0 [1]).length ∧
      (3 : Half).toNat ≤ ((replyBytes 0x4252 3 2 7 0 [1]).drop 8).length) ∧
    (ClockSteady inFlight.io 5005100 ∧ (5005100 : Micros) < waiting.deadline ∧
      ((replyBytes 0x4252 5 2 7 0 [1]).drop 8).length + ([[2]] : List (List Byte)).flatten.length < (5 : Half).toNat ∧
      (5 : Half).toNat ≤ ((replyBytes 0x4252 5 2 7 0 [1]).drop 8).length +
        ([[2]] : List (List Byte)).flatten.length + ([3, 4] : List Byte).length) ∧
    (∀ d ∈ ([[2], [3, 4]] : List (List Byte)), d.length ≤ inFlight.cap.maxPkt.toNat) ∧
    (ClockSteady (ports 6000000) 6000000 ∧ waiting.deadline ≤ (6000000 : Micros) ∧
      ((replyBytes 0x4252 5 2 7 0 [1]).drop 8).length < (5 : Half).toNat) ∧
    hostClock (unanswered Stream.reset).io = none :=
  ⟨by decide, ⟨by decide, by decide, by decide, by decide⟩, by decide, ⟨by decide, by decide, by decide⟩, by rfl⟩

theorem test_witness_CtStatus : (1 : Half) ≠ 0 ∧ (1 : Half) ≠ 0x000D ∧
    (1 : Half) ∉ ([0x0003, 0x0005, 0x0007, 0x000E, 0x0010] : List Half) := by decide

/-- A reply of exactly `MAX_PKT` bytes; no exchange, and one that waits for its clock. -/
theorem test_witness_RspEndsExchange :
    (let s := { inFlight with cap := { caps with maxPkt := 10 } }
     s.exchange = some waiting ∧ waiting.phase = .reply ∧ s.io.recvQ = [] ∧
      10 + ([] : List Byte).length ≤ s.cap.maxPkt.toNat ∧ 2 + ([] : List Byte).length ≤ s.cfg.bodyMax ∧
      (1 : Half).toNat ∉ [0x0000, 0x0003, 0x0005, 0x0007, 0x000D, 0x000E, 0x0010]) ∧
    (linked seeking).exchange = none ∧ ({ waiting with phase := .pollReply } : Exchange).phase.receives = false := by
  decide

/-- The first repeat, and the reply after the last one. -/
theorem test_witness_RspNotReady :
    (inFlight.exchange = some waiting ∧ waiting.phase = .reply ∧ inFlight.io.recvQ = [] ∧
      sendDraw inFlight.io = some .ok ∧ 10 + ([] : List Byte).length ≤ inFlight.cap.maxPkt.toNat ∧
      2 + ([] : List Byte).length ≤ inFlight.cfg.bodyMax ∧ ClockSteady inFlight.io 5005100 ∧ 0 < (inFlight.timeout 2).toNat ∧
      (5005100 : Micros).toNat + (inFlight.timeout 2).toNat < 18446744073709551616 ∧
      waiting.nrCnt.toNat < inFlight.cfg.notReadyRetries) ∧
    inFlight.cfg.notReadyRetries ≤ ({ waiting with nrCnt := 3 } : Exchange).nrCnt.toNat := by decide

/-- A receive failed within the bound and at it; a chunk without the magic before the deadline, at it, and with no clock; a
body one byte short, then whole; each other place an exchange can wait at. -/
theorem test_witness_ExchangeAnswers :
    (inFlight.exchange = some waiting ∧ inFlight.io.recvQ = [] ∧ waiting.phase.receives = true ∧
      ({ waiting with xrCnt := 4 } : Exchange).xrCnt.toNat < inFlight.cfg.xportRetries ∧
      inFlight.cfg.xportRetries ≤ ({ waiting with xrCnt := 5 } : Exchange).xrCnt.toNat) ∧
    (∀ i < 2, ¬ MagicAt caps [0x52, 0x52] i) ∧
    (ClockSteady inFlight.io 5005100 ∧ (5005100 : Micros) < waiting.deadline ∧
      ({ waiting with deadline := 5005100 } : Exchange).deadline ≤ 5005100 ∧
      hostClock (unanswered Stream.reset).io = none) ∧
    (let x := { waiting with phase := .body 4, body := [0, 0], bodyLen := 2 }
     x.phase = .body 4 ∧ x.bodyLen.toNat + ([7] : List Byte).length < (4 : Half).toNat ∧
      (4 : Half).toNat ≤ x.bodyLen.toNat + ([7, 8] : List Byte).length ∧
      (x.body ++ [7, 8]).take (4 : Half).toNat = halfBytes 0 ++ [7, 8] ∧ x.body.length = x.bodyLen.toNat) ∧
    (∀ phase ∈ [CtPhase.pollReply, .pollBody 4, .send [1], .start], ({ waiting with phase := phase } : Exchange).phase = phase) ∧
    (sendDraw inFlight.io = some .ok ∧ 0 < (inFlight.timeout 2).toNat ∧
      (5005100 : Micros).toNat + (inFlight.timeout 2).toNat < 18446744073709551616) := by decide

/-- A held stream lock, met by the last reader agent of the block, and a conversion in flight with its lock free. -/
theorem test_witness_LocksWait :
    (let st := { seeking with lock := some .host }
     (linked st).streams[0]? = some st ∧ st.lock ≠ none ∧ codecOutOfDomain (linked st).cfg conf.codec = false ∧
      agentExists (linked st).cfg (.rd 1) = true) ∧
    (let st := { seeking with job := some ⟨⟨.hostonly, .clock⟩, .asked (some (.rd 0))⟩ }
     (linked st).streams[0]? = some st ∧ st.lock = none ∧ st.job ≠ none) := by decide

/-- A lock that is held, and one that is withheld; a free lock with no clock answer; a reference with no clock answer; each
place a conversion goes on from, without a reference too; a chunk that goes on, and one that comes to wait. -/
theorem test_witness_ConversionWaits :
    (let s := { linked seeking with clkLock := some (.rd 1), ref := ⟨false, 0, 0⟩ }
     s.streams[0]? = some seeking ∧ seeking.job = none ∧ s.clkLock ≠ none ∧ s.ref.valid = false) ∧
    ({ ports 9 with grantLocks := false } : Io).grantLocks = false ∧
    (let s := { unanswered seeking with ref := ⟨false, 0, 0⟩ }
     s.clkLock = none ∧ s.io.grantLocks = true ∧ s.ref.valid = false ∧ hostClock s.io = none) ∧
    ((unanswered seeking).ref.valid = true ∧ seeking.syFirst = true) ∧
    (let s := { linked { timing with syFirst := true } with ref := ⟨false, 1000, 5000000⟩ }
     timing.job = some ⟨⟨.tohost (counterTick s.cfg 301000), .clock⟩, .asked (some (.rd 0))⟩ ∧
      (after (s.resumeReader 0) (fun t => (t.ret, t.ref.valid, t.streams.map (·.syFirst))) =
        some (.time 5000, false, [true, true]))) ∧
    (∀ w ∈ [(⟨.tohost 5, .lock⟩ : TimeWait), ⟨.hostonly, .reference⟩, ⟨.tohost 5, .clock⟩],
      (linked { seeking with job := some ⟨w, .asked (some (.rd 0))⟩ }).io.clock.rest ≠ none) ∧
    (let st := chunkWaiting
     st.lock = some (.rd 0) ∧ st.hdr = tableCells 0 (headerBytes 0x4252 0x7200 3 2 9) ∧
      State.resumeReader ((linked st).put 0 { st with job := some ⟨⟨.hostonly, .clock⟩, .asked (some (.rd 0))⟩ }
        (linked st).io .none) 0 = .next { (linked st).put 0 { st with job := none }
          (((linked st).io.reads 5005100 1).puts [.result (.rd 0) (.time 5100)]) (.time 5100) with
            ref := (linked st).ref, clkLock := none } ∧
      (after ((linked st).resumeReader 0) (fun t => (t.ret, t.streams.map (·.lock))) = some (.none, [none, none]))) ∧
    (after (exec (.prChunk 0 (headerBytes 0x4252 0x7200 3 2 9 ++ [1, 2])) (unanswered seeking)) (fun t => t.ret) =
      some .waiting) :=
  ⟨by decide, rfl, ⟨rfl, rfl, rfl, by rfl⟩, ⟨rfl, rfl⟩, ⟨rfl, by decide⟩, by decide,
    ⟨rfl, rfl, by rfl, by decide⟩, by decide⟩

/-- A record whose crop rectangle reaches the border of the frame, and one that goes one past it. -/
theorem test_witness_PrConfigure :
    let c := { conf with cropEn := true, cropX := 1, cropW := 1, cropY := 0, cropH := 2, pixBytes := 4 }
    let st := Stream.reset
    ((linked st).streams[0]? = some st ∧ st.lock = none ∧ codecOutOfDomain (linked st).cfg c.codec = false ∧
      st.pstate = .awaitingConfiguration ∧ c.typeSof ≠ c.typeEof ∧ c.codec ≠ .xform ∧ 1 ≤ c.pixBytes.toNat ∧
      c.pixBytes.toNat ≤ 4 ∧ c.outCap.toNat ≤ (linked st).cfg.outCapMax ∧
      (c.cropX.toNat + c.cropW.toNat ≤ c.xRes.toNat ∧ c.cropY.toNat + c.cropH.toNat ≤ c.yRes.toNat)) ∧
    ¬ ({ c with cropW := 2 }.cropX.toNat + ({ c with cropW := 2 } : StreamConfig).cropW.toNat ≤ c.xRes.toNat) := by
  decide

theorem test_witness_PrArm :
    let st := { Stream.reset with conf := conf, cfgValid := true }
    ((linked st).streams[0]? = some st ∧ st.lock = none ∧ st.pstate = .awaitingConfiguration ∧
      (linked st).capValid = true ∧ st.cfgValid = true ∧ st.conf.codec = .pass) ∧
    seeking.pstate ≠ .awaitingConfiguration := by decide

theorem test_witness_PrStop : (linked seeking).streams[0]? = some seeking ∧ seeking.lock = none := by decide

/-- Ignoring one byte less and exactly as many as are left; the magic's second half, and not. -/
theorem test_witness_PrScan :
    let st := { seeking with pstate := .ignoringGarbage, ignLeft := 3 }
    (linked st).streams[0]? = some st ∧ ([0, 0x42, 9] : List Byte)[1]? = some 0x42 ∧
    3 - 1 < st.ignLeft.toNat ∧ ({ st with ignLeft := 2 } : Stream).ignLeft.toNat ≤ 3 - 1 ∧
    (0x42 : Byte) = hiByte caps.magicD2H ∧ (0x52 : Byte) ≠ hiByte caps.magicD2H := by decide

/-- Up to the eleventh byte, and the twelfth. -/
theorem test_witness_PrHdr :
    let st := { seeking with
      pstate := .readingHeader, hdr := tableCells 0 ((headerBytes 0x4252 0x7200 3 4 9).take 10), hdrCnt := 10 }
    (linked st).streams[0]? = some st ∧ st.hdrCnt.toNat < 12 ∧ st.job = none ∧ Unhindered (linked st) ∧
    st.hdrCnt.toNat + (([9, 0] : List Byte).length - 1) < 12 ∧
    12 ≤ st.hdrCnt.toNat + (([9, 0, 0] : List Byte).length - 1) ∧
    (headerBytes 0x4252 0x7200 3 4 9).take 10 ++ (([9, 0, 0] : List Byte).drop 1).take (12 - 10) =
      headerBytes 0x4252 0x7200 3 4 9 := by decide

/-- A piece, both kinds of packet end, and a piece that fills the buffer to its last byte. -/
theorem test_witness_PrData :
    (linked (reading 0x7200 4)).streams[0]? = some (reading 0x7200 4) ∧ 1 < ([9, 8] : List Byte).length ∧
    (0x7200 : Half) ≠ (reading 0x7200 4).conf.typeEof ∧ (0x7500 : Half) = (reading 0x7500 4).conf.typeEof ∧
    (let st := { reading 0x7200 9 with drop := false }
     1 < (9 : Nat) ∧ 9 - 1 < st.dataLeft.toNat ∧ st.conf.codec = .pass ∧
      st.outLen.toNat + (9 - 1) ≤ st.conf.outCap.toNat) ∧
    ({ reading 0x7200 9 with drop := true } : Stream).drop = true := by decide

theorem test_witness_PrPktstart :
    (linked (reading 0x7100 4)).streams[0]? = some (reading 0x7100 4) ∧ (reading 0x7100 4).job = none ∧
    (reading 0x7100 4).hdr = tableCells 0 (headerBytes 0x4252 0x7100 3 4 0x00050003) ∧
    (linked (reading 0x7100 4)).cap.sofTsPad = true ∧ (0x7100 : Half) = (reading 0x7100 4).conf.typeSof ∧
    5 * sampleBytes Config.ref conf ≤ ({ conf with outCap := 10 } : StreamConfig).outCap.toNat ∧
    (0x7200 : Half) ≠ (reading 0x7200 4).conf.typeSof ∧ (reading 0x7200 4).conf.tsMode = .hostOnly ∧
    (linked (reading 0x7200 4)).ref.valid = true ∧
    (linked (reading 0x7200 4)).ref.host ≤ (linked (reading 0x7200 4)).io.clock.last ∧
    (hostClock (linked seeking).io).map Prod.fst = some 5005100 := by decide

/-- Padding that fills the buffer to its last byte; a header timed by the host clock at the reference's own time. -/
theorem test_witness_PktClasses :
    (linked seeking).streams[0]? = some seeking ∧ seeking.lock = none ∧ seeking.job = none ∧
    seeking.pstate = .seekingMagic ∧ seeking.magicHalf = false ∧ seeking.hdr = [] ∧
    loByte (linked { seeking with magicHalf := true }).cap.magicD2H ≠ hiByte caps.magicD2H ∧
    (linked seeking).cap.sofTsPad = true ∧
    ((0x00040000 : Tick).extractLsb' 16 16).toNat * sampleBytes Config.ref seeking.conf ≤
      seeking.conf.outCap.toNat ∧
    seeking.conf.tsMode = .hostOnly ∧ (linked seeking).ref.valid = true ∧
    (linked seeking).ref.host ≤ (linked seeking).io.clock.last ∧
    (hostClock { ports 5000000 with trace := [] }).map Prod.fst = some 5000000 ∧ Unhindered (linked seeking) ∧
    ({ caps with sofTsPad := false } : Cap).sofTsPad = false ∧ seeking.conf.typeEof ≠ seeking.conf.typeSof ∧
    (0x7200 : Half) ≠ seeking.conf.typeSof := by decide

/-- The three ids of R178: the restart, the successor, any other; the successor across the wrap of 3 bits. -/
theorem test_witness_PrLosschk :
    let st := fun q : Half => { seeking with lastSeq := 5, hdr := tableCells 0 (headerBytes 0x4252 0x7200 q 4 9) }
    (∀ q, (linked (st q)).streams[0]? = some (st q)) ∧
      (6 : Half) = BitVec.ofNat 16 (((st 6).lastSeq.toNat + 1) % 2 ^ Config.ref.seqBits) ∧ (7 : Half) ≠ 0 ∧
      (7 : Half) ≠ BitVec.ofNat 16 (((st 7).lastSeq.toNat + 1) % 2 ^ Config.ref.seqBits) ∧
      nextSeq { Config.ref with seqBits := 3 } 7 = 0 :=
  ⟨fun _ => rfl, by decide, by decide, by decide, by decide⟩

/-- No padding on an incomplete header; padding of 8 bytes in 8, and of 10 bytes in 8. -/
theorem test_witness_PrSof :
    ({ linked seeking with cap := { caps with sofTsPad := false } } : State).cap.sofTsPad = false ∧ seeking.hdr = [] ∧
    (reading 0x7100 4).hdr = tableCells 0 (headerBytes 0x4252 0x7100 3 4 0x00050003) ∧
    (linked (reading 0x7100 4)).cap.sofTsPad = true ∧
    (4 : Nat) * sampleBytes Config.ref conf ≤ conf.outCap.toNat ∧
    conf.outCap.toNat < ((0x00050003 : Tick).extractLsb' 16 16).toNat * sampleBytes Config.ref conf := by decide

/-- `CS.HOSTONLY` answers in the form the statement takes, and so does `CS.TOHOST` of a zero tick before any reference; a
conversion that waits; one that does not fit 64 bits. -/
theorem test_witness_PrTime :
    (let st := reading 0x7200 4
     let s := linked st
     st.job = none ∧ s.ref.valid = true ∧ s.ref.host ≤ s.io.clock.last ∧
      hostClock s.io = some (5005100, s.io.reads 5005100 1) ∧
      exec (.csHostonly (.rd 0) 0) s = .next
        { s.put 0 st ((s.io.reads 5005100 1).puts [.result (.rd 0) (.time 5100)]) (.time 5100) with
          ref := s.ref, clkLock := none }) ∧
    (let st := { reading 0x7200 4 with conf := { conf with tsMode := .device } }
     let s := { linked st with ref := ⟨false, 0, 0⟩ }
     exec (.csTohost (.rd 0) 0 0) s = .next
      { s.put 0 st (s.io.puts [.result (.rd 0) (.time 0)]) (.time 0) with ref := s.ref, clkLock := none }) ∧
    (let st := reading 0x7200 4
     let s := unanswered st
     exec (.csHostonly (.rd 0) 0) s = .next
      { s.put 0 { st with job := some ⟨⟨.hostonly, .clock⟩, .asked (some (.rd 0))⟩ } s.io .waiting with
        ref := s.ref, clkLock := none }) ∧
    (exec (.csTohost (.rd 0) 0 1000) (linked worn) = .fault .outOf64Bits) :=
  ⟨⟨rfl, rfl, by decide, by rfl, by rfl⟩, by rfl, by rfl, by rfl⟩

/-- A piece that fits exactly, and one byte more. -/
theorem test_witness_PrPiece :
    (linked seeking).streams[0]? = some seeking ∧ seeking.drop = false ∧ seeking.conf.codec = .pass ∧
    seeking.outLen.toNat + (List.replicate 8 (0 : Byte)).length ≤ seeking.conf.outCap.toNat ∧
    seeking.conf.outCap.toNat < seeking.outLen.toNat + (List.replicate 9 (0 : Byte)).length ∧
    (unpacking .unpack11 80).conf.codec = .unpack11 := by decide

/-- Four samples of two bytes in eight, five samples; a no-data value that one byte holds. -/
theorem test_witness_PrPad :
    (linked seeking).streams[0]? = some seeking ∧ seeking.drop = false ∧ (4 : Half) ≠ 0 ∧
    seeking.outLen.toNat + (4 : Half).toNat * sampleBytes Config.ref seeking.conf ≤ seeking.conf.outCap.toNat ∧
    seeking.conf.outCap.toNat < seeking.outLen.toNat + (5 : Half).toNat * sampleBytes Config.ref seeking.conf ∧
    ({ Config.ref with noData := 255 } : Cfg).noData < 256 ^ 1 := by decide

/-- Trailing padding that fills the frame, and padding of one sample more. -/
theorem test_witness_PrEof :
    let st := fun k : Half => { seeking with out := tableCells 0 [1, 2], outLen := 2, trailPad := k }
    (∀ k, (linked (st k)).streams[0]? = some (st k)) ∧ (st 3).outLen.toNat = ([1, 2] : List Byte).length ∧
      (st 3).drop = false ∧
      ([1, 2] : List Byte).length + (st 3).trailPad.toNat * sampleBytes Config.ref (st 3).conf ≤
        (st 3).conf.outCap.toNat ∧
      (st 4).trailPad ≠ 0 ∧
      (st 4).conf.outCap.toNat <
        ([1, 2] : List Byte).length + (st 4).trailPad.toNat * sampleBytes Config.ref (st 4).conf :=
  ⟨fun _ => rfl, by decide, by decide, by decide, by decide, by decide⟩

theorem test_witness_CsHostonly :
    (let s := linked seeking
     s.streams[0]? = some seeking ∧ seeking.job = none ∧ hostClock s.io = some (5005100, s.io.reads 5005100 1) ∧
      s.ref.valid = true ∧ s.clkLock = none ∧ s.io.grantLocks = true ∧ s.ref.host ≤ s.io.clock.last ∧
      hostClock (s.io.reads 5005100 1) = some (5005100, s.io.reads 5005100 2)) ∧
    ({ linked seeking with ref := ⟨false, 0, 0⟩ } : State).ref.valid = false :=
  ⟨⟨rfl, rfl, by rfl, rfl, rfl, rfl, by decide, by rfl⟩, rfl⟩

theorem test_witness_CsInit :
    let s := linked synced
    s.streams[0]? = some synced ∧ synced.job = none ∧ hostClock s.io = some (5005100, s.io.reads 5005100 1) ∧
      s.ref.host ≤ s.io.clock.last ∧ cfgLegal s.cfg = true ∧ s.ref.tick.toNat < 2 ^ s.cfg.tickBits ∧
      ((5005100 : Micros).toNat - s.ref.host.toNat) * s.cfg.freq + 2 * 2 ^ s.cfg.tickBits < 18446744073709551616 :=
  ⟨rfl, rfl, by rfl, by decide, by decide, by decide, by decide⟩

/-- R213's example: 4500000000 ticks, one wrap. -/
theorem test_witness_CsInitExact :
    let s := { linked synced with io := ports 80000000 }
    s.streams[0]? = some synced ∧ synced.job = none ∧ hostClock s.io = some (80000000, s.io.reads 80000000 1) ∧
      cfgLegal s.cfg = true ∧ s.ref.host ≤ s.io.clock.last ∧ 4500000000 < 9223372036854775808 ∧
      (counterTick s.cfg 205033704).toNat = (s.ref.tick.toNat + 4500000000) % 2 ^ s.cfg.tickBits ∧
      s.ref.tick.toNat ≤ (counterTick s.cfg 205033704).toNat ∧
      ((80000000 : Micros).toNat - s.ref.host.toNat) * s.cfg.freq < 4500000000 + 2 ^ s.cfg.tickBits / 2 ∧
      4500000000 < ((80000000 : Micros).toNat - s.ref.host.toNat) * s.cfg.freq + 2 ^ s.cfg.tickBits / 2 :=
  ⟨rfl, rfl, by rfl, by decide, by decide, by decide, by decide, by decide, by decide, by decide⟩

theorem test_witness_CsAdvance :
    (linked synced).streams[0]? = some synced ∧ cfgLegal (linked synced).cfg = true ∧
    synced.syLref.toNat < 2 ^ Config.ref.tickBits ∧ synced.syLastTick.toNat < 2 ^ Config.ref.tickBits ∧
    synced.syLref.toNat ≤ synced.syTotal.toNat + synced.syLastTick.toNat ∧
    synced.syTotal.toNat + synced.syLastTick.toNat - synced.syLref.toNat + 2 * 2 ^ Config.ref.tickBits ≤
      18446744073709551616 := by
  decide

/-- Each clause: no reference yet, also under a held lock; a first call; a jump of exactly the tolerance, and one microsecond
more. -/
theorem test_witness_CsTohost :
    (let s := { linked seeking with ref := ⟨false, 0, 0⟩ }
     s.ref.valid = false ∧ counterTick s.cfg 5 ≠ 0 ∧ counterTick s.cfg 0 = 0 ∧ s.clkLock = none ∧
      s.io.grantLocks = true ∧ seeking.syFirst = true ∧ seeking.job = none ∧
      ClockSteady s.io 5005100 ∧ (hostClock s.io).isSome = true) ∧
    ({ linked seeking with ref := ⟨false, 0, 0⟩, clkLock := some (.rd 1) } : State).ref.valid = false ∧
    (let s := linked seeking
     s.ref.valid = true ∧
      exec (.csInit 0 301000) s = .next (s.put 0
        { seeking with syLref := 1000, syTotal := 0, syLastTick := 301000, syFirst := false } (s.io.reads 5005100 1)
        (.time 5000))) ∧
    (let s := linked synced
     let moved := fun k : Tick => { synced with syLastTick := k }
     exec (.csAdvance 0 601000) s = .next (s.put 0 (moved 601000) s.io (.time 10000)) ∧
      (((10000 : Micros).toNat : Int) - synced.syLastRes.toNat).natAbs ≤ s.cfg.sanityTolUs ∧
      exec (.csAdvance 0 601060) s = .next (s.put 0 (moved 601060) s.io (.time 10001)) ∧
      s.cfg.sanityTolUs < (((10001 : Micros).toNat : Int) - synced.syLastRes.toNat).natAbs ∧
      exec (.csResync 0 601060) (s.put 0 (moved 601060) s.io (.time 10001)) = .next (s.put 0 (moved 601060)
        ((s.io.reads 5005100 1).puts [.event (.clockDesync 0)]) (.time 10001))) :=
  ⟨by decide, rfl, ⟨rfl, by rfl⟩, by rfl, by decide, by rfl, by decide, by rfl⟩

/-- A calibrated stream of two codes and three depths. -/
def calibrated : Stream :=
  { seeking with
    conf := { conf with lutEn := true }, calValid := true, s2d := [(0, 5), (1, 6)], d2s := [(0, 0), (1, 1), (2, 1)] }

/-- A block whose configuration fits it. -/
def calibratedState : State := { linked calibrated with cfg := { smallCfg with maxCode := 2, maxDepth := 2 } }

/-- The last code and the last depth, and one beyond each. -/
theorem test_witness_BdTables :
    calibratedState.streams[0]? = some calibrated ∧ calibratedState.cfg.maxCode ≤ (2 : Half).toNat ∧
    (1 : Half).toNat < calibratedState.cfg.maxCode ∧ calibrated.conf.lutEn = true ∧
    readCell calibrated.s2d (1 : Half).toNat = some 6 ∧ calibrated.lock = none ∧ calibrated.calValid = true ∧
    2 ≤ calibratedState.cfg.maxDepth ∧ readCell calibrated.d2s 2 = some 1 ∧ calibratedState.cfg.maxDepth < 3 ∧
    seeking.conf.lutEn = false ∧ seeking.calValid = false := by decide

/-- Both codecs with codes at the maximum of their width, with and without a table; room for exactly one element, and one
byte less; elements of half the size. -/
theorem test_witness_BdElement :
    (∀ c ∈ List.replicate 16 2047, c < 2 ^ 11) ∧ (∀ c ∈ List.replicate 16 4095, c < 2 ^ 12) ∧
    (List.replicate 16 2047).length = Config.ref.elemOut ∧ TableReady Config.ref (unpacking .unpack11 32) ∧
    TableReady calibratedState.cfg calibrated ∧ cfgLegal Config.ref = true ∧
    (unpacking .unpack11 32).outLen.toNat + Config.ref.sampleBits / 8 * Config.ref.elemOut ≤ (unpacking .unpack11 32).conf.outCap.toNat ∧
    (unpacking .unpack12 31).conf.outCap.toNat < (unpacking .unpack12 31).outLen.toNat + Config.ref.sampleBits / 8 * Config.ref.elemOut ∧
    cfgLegal { Config.ref with elemIn11 := 11, elemIn12 := 12, elemOut := 8 } = true := by decide

theorem test_witness_BdUnpack :
    let st := unpacking .unpack12 80
    ((linked st).streams[0]? = some st ∧ st.lock = none ∧
      ¬ (st.cfgValid = false ∨ st.conf.codec = .pass ∨ (st.conf.lutEn = true ∧ st.calValid = false)) ∧
      TableReady (linked st).cfg st ∧ cfgLegal (linked st).cfg = true ∧
      (∀ codes ∈ [List.replicate 16 4095], codes.length = (linked st).cfg.elemOut ∧ ∀ c ∈ codes, c < 2 ^ 12) ∧
      (List.replicate 23 (0 : Byte)).length < 24 ∧ agentExists (linked st).cfg (.rd 1) = true) ∧
    seeking.conf.codec = .pass := by decide

/-- R243's example: 10 bytes carried, 38 fed, two elements; a buffer that holds both exactly, and one byte less. -/
theorem test_witness_BdFeed :
    let zeros := List.replicate 16 0
    let st := fun cap => { unpacking .unpack12 cap with cont := tableCells 0 (List.replicate 10 0), contLen := 10 }
    (linked (st 64)).streams[0]? = some (st 64) ∧ (st 64).drop = false ∧
      (st 64).outLen.toNat ≤ (st 64).conf.outCap.toNat ∧ TableReady (linked (st 64)).cfg (st 64) ∧
      (st 64).contLen.toNat = (List.replicate 10 (0 : Byte)).length ∧
      List.replicate 10 0 ++ List.replicate 38 0 = (([zeros, zeros]).map (packElement 12 24)).flatten ++ [] ∧
      (st 64).outLen.toNat + Config.ref.sampleBits / 8 * 32 ≤ (st 64).conf.outCap.toNat ∧
      (st 63).conf.outCap.toNat < (st 63).outLen.toNat + Config.ref.sampleBits / 8 * 32 ∧
      (st 64).lock = none ∧ (st 64).cfgValid = true ∧ (st 64).conf.lutEn = false ∧
      agentExists (linked (st 64)).cfg (.rd 1) = true := by decide

theorem test_witness_BdCalibrate : (linked seeking).streams[0]? = some seeking ∧ seeking.lock = none := by decide

end Sys2Proof.Tests
end

section
/-! PROOFS. What a step does in each turn (R18, R72, R281, R283), and what has no step (R8, R108, R124, R287). -/

namespace Sys2Proof.Machine

/-! ### Turns -/

theorem mem_turns_stimulus {s : State} (h : s.stimuli ≠ []) : Turn.stimulus ∈ s.turns := by
  simp [State.turns, h]

theorem stimuli_ne_nil_of_resetNext {s : State} (h : s.resetNext = true) : s.stimuli ≠ [] := by
  intro hn
  simp [State.resetNext, hn] at h

/-- Whose turn it is is one of what can come next (R72, R283). -/
theorem mem_turns_of_turn {s : State} {t : Turn} (h : s.turn = some t) : t ∈ s.turns := by
  by_cases hr : s.resetNext = true
  · have ht : t = .stimulus := by simpa [State.turn, hr] using h.symm
    exact ht ▸ mem_turns_stimulus (stimuli_ne_nil_of_resetNext hr)
  · simp only [State.turn, if_neg hr] at h
    split at h
    case h_1 => cases h
    case h_2 u heq => simpa [heq] using h.symm
    case h_3 u w ts heq => exact heq ▸ List.mem_of_getElem? h

/-- Where nothing can come next nothing has its turn (R149). -/
theorem turn_eq_none {s : State} (h : s.turns = []) : s.turn = none := by
  cases ht : s.turn with
  | none => rfl
  | some t => exact absurd (mem_turns_of_turn ht) (by simp [h])

/-- An admitted command whose turn it is finds `CMD_LOCK` free and granted (R72, R76). -/
theorem lock_free_of_admitted_turn {s : State} {k : Nat} (h : s.turn = some (.admitted k)) :
    s.cmdHeld = false ∧ s.io.grantLocks = true := by
  have hm : k ∈ s.admissible := by
    have := mem_turns_of_turn h
    simp only [State.turns, List.mem_append, List.mem_map] at this
    rcases this with (((⟨_, _, h⟩ | ⟨k', hk, h⟩) | ⟨_, _, h⟩) | h) | h
    · cases h
    · cases h; exact hk
    · cases h
    · split at h <;> simp at h
    · split at h <;> simp at h
  by_cases hf : (s.cmdHeld || !s.io.grantLocks) = true
  · simp [State.admissible, hf] at hm
  · simpa using hf

/-! ### The step of each turn -/

/-- The state in which the turn that comes next is taken: the choice among several is counted. -/
def State.chosen (s : State) : State := { s with choices := s.choicesAfter }

/-- The state in which the next stimulus is taken, `rest` being those after it. -/
def State.stimulated (s : State) (rest : List Stimulus) : State :=
  { s with choices := s.choicesAfter, stimuli := rest }

/-- What a choice makes of the state it is taken in. -/
def State.perform (s : State) : Choice → Outcome
  | .idle => .next s
  | .refuse r => .refused r
  | .supply x s' => s'.supply x
  | .hold i s' => .next (s'.hold i)
  | .run i s' => exec i s'
  | .grantLock c s' => s'.beginExchange c.agent c.op c.payload
  | .resumeReader sid s' => s'.resumeReader sid
  | .resumeExchange s' => s'.resumeExchange

/-- Under a configuration in its domain a step performs what it selects. -/
theorem step_eq_perform {s : State} (hc : cfgLegal s.cfg = true) : step s = s.perform s.select := by
  rw [step, if_pos hc]
  cases s.select <;> rfl

theorem step_of_turn {s : State} {t : Turn} (hc : cfgLegal s.cfg = true) (ht : s.turn = some t) :
    step s = s.perform (s.chosen.take t) := by
  rw [step_eq_perform hc, State.select, ht]
  rfl

theorem step_of_no_turns {s : State} (hc : cfgLegal s.cfg = true) (h : s.turns = []) : step s = .next s := by
  rw [step_eq_perform hc, State.select, turn_eq_none h]
  rfl

/-- A step outside the domain of `CFG` is refused (U13). -/
theorem step_illegal {s : State} (hc : cfgLegal s.cfg = false) : step s = .refused .illegalConfiguration := by
  simp [step, hc]

/-- A port transaction in its turn is started on the state without it. -/
theorem step_of_port {s : State} {t : Transaction} {rest : List Stimulus} (hc : cfgLegal s.cfg = true)
    (hs : s.stimuli = .port t :: rest) (ht : s.turn = some .stimulus) :
    step s = s.perform ((s.stimulated rest).start t) := by
  rw [step_of_turn hc ht]
  simp [State.take, State.nextStimulus, State.chosen, State.stimulated, hs]

/-- What the environment does in its turn is supplied to the state without it (R110). -/
theorem step_of_supply {s : State} {x : Stimulus} {rest : List Stimulus} (hc : cfgLegal s.cfg = true)
    (hs : s.stimuli = x :: rest) (hx : ∀ t, x ≠ .port t) (ht : s.turn = some .stimulus) :
    step s = (s.stimulated rest).supply x := by
  rw [step_of_turn hc ht]
  cases x with
  | port t => exact absurd rfl (hx t)
  | clock | send | recv | locks => simp [State.take, State.nextStimulus, State.chosen, State.stimulated, State.perform, hs]

/-- The registers a transaction is compared with are no part of the stimuli or of the choices made. -/
theorem decodeCtx_stimulated (s : State) (rest : List Stimulus) (t : Transaction) :
    (s.stimulated rest).decodeCtx t = s.decodeCtx t := rfl

/-- What is held of a transaction whose agent is not free: a header as its bytes (log entry 32). -/
def heldAs (t : Transaction) (i : Instr) : Instr :=
  match t with
  | .packet sid hw => .prChunk sid (packetBytes hw)
  | _ => i

/-- A transaction that decodes begins as the operation it decodes to. -/
theorem start_of_decode {s : State} {t : Transaction} {i : Instr} (hd : decodeInput (s.decodeCtx t) t = .ok i) :
    s.start t = s.begin i (heldAs t i) := by
  cases t <;> simp only [State.start, hd, heldAs]

/-- A well-formed operation whose agent is not free is held (R281). -/
theorem begin_busy {s : State} {i later : Instr} (hw : i.wellFormed s.cfg) (hb : s.busy i = true) :
    s.begin i later = .hold later s := by
  simp [State.begin, hw, hb]

/-- A transaction of a busy agent is held in its turn (R281; log entry 32). -/
theorem step_holds_busy {s : State} {t : Transaction} {rest : List Stimulus} {i : Instr} (hc : cfgLegal s.cfg = true)
    (hs : s.stimuli = .port t :: rest) (ht : s.turn = some .stimulus)
    (hd : decodeInput (s.decodeCtx t) t = .ok i) (hw : i.wellFormed s.cfg) (hb : s.busy i = true) :
    step s = .next ((s.stimulated rest).hold (heldAs t i)) := by
  rw [step_of_port hc hs ht, start_of_decode ((decodeCtx_stimulated s rest t).symm ▸ hd),
    begin_busy (s := s.stimulated rest) hw hb]
  rfl

end Sys2Proof.Machine

namespace Sys2Proof.Settled

open Machine

/-- Settles O5. -/
theorem stepTurns : Obligations.StepTurns := by
  intro s hc
  refine ⟨?busy, ?held, ?admitted, fun sid ht => step_of_turn hc ht, fun ht => step_of_turn hc ht,
    fun t ht => mem_turns_of_turn ht, fun h => step_of_no_turns hc h⟩
  case busy =>
    intro t rest i hs ht hd hw hb
    rw [step_holds_busy hc hs ht hd hw hb]
    cases t <;> rfl
  case held =>
    intro k i ht hk
    rw [step_of_turn hc ht]
    simp [State.take, State.chosen, State.perform, hk]
  case admitted =>
    intro k c ht hk
    rw [step_of_turn hc ht]
    simp [State.take, State.chosen, State.perform, hk]

end Sys2Proof.Settled

namespace Sys2Proof.Machine

/-! ### What has no step -/

/-- A host operation of the `HOST` row by another agent has no step (R287). -/
theorem exec_not_host {s : State} {a : Agent} {i : Instr} {sid : Nat} {v : Version} {table : List CapRow}
    {c : StreamConfig} {cal : CalRecord} {mn mx : Half} {which : TableSel} {idx : Nat} (ha : a ≠ .host)
    (hc : codecOutOfDomain s.cfg c.codec = false)
    (hi : i ∈ [Instr.ctConnect a v table, .ctDisconnect a, .prConfigure a sid c, .prArm a sid, .prStop a sid,
      .bdCalibrate a sid cal mn mx, .bdReadtable a sid which idx]) : exec i s = .refused .wrongAgent := by
  simp only [List.mem_cons, List.not_mem_nil, or_false] at hi
  rcases hi with rfl | rfl | rfl | rfl | rfl | rfl | rfl
  · simp [exec, execCtConnect, ha]
  · simp [exec, execCtDisconnect, ha]
  · simp [exec, execPrConfigure, hc, ha, onHost_wrongAgent]
  · simp [exec, execPrArm, ha, onHost_wrongAgent]
  · simp [exec, execPrStop, ha, onHost_wrongAgent]
  · simp [exec, execBdCalibrate, ha, onHost_wrongAgent]
  · simp [exec, execBdReadtable, ha, onHost_wrongAgent]

theorem isIssuer_eq_false {a : Agent} (h : ∀ k, a ≠ .ci k) : isIssuer a = false := by
  cases a with
  | host => rfl
  | ci k => exact absurd rfl (h k)
  | rd sid => rfl

/-- A selector that is in no row of R108 is no operation. -/
theorem decodeHostop_unknown {sel : Byte} (a : Agent) (args : HostArgs)
    (h : sel.toNat ∉ [0x01, 0x02, 0x03, 0x10, 0x11, 0x12, 0x20, 0x21, 0x22, 0x30, 0x31]) :
    decodeHostop a sel args = .error (.unknownSelector sel) := by
  simp only [List.mem_cons, List.not_mem_nil, or_false, not_or] at h
  unfold decodeHostop
  split <;> simp_all

/-- A transaction with an unknown selector has no step (R100, R108). -/
theorem start_unknownSelector {s : State} {a : Agent} {sel : Byte} {args : HostArgs}
    (h : decodeHostop a sel args = .error (.unknownSelector sel)) :
    s.start (.hostop a sel args) = .refuse (.undecodable (.unknownSelector sel)) := by
  simp [State.start, decodeInput, h]

theorem oversize_eq_true {cap : Cap} {payload : List Byte} (h : cap.maxPkt.toNat < 8 + payload.length) :
    oversize cap payload = true := by
  exact decide_eq_true h

theorem oversize_eq_false {cap : Cap} {payload : List Byte} (h : 8 + payload.length ≤ cap.maxPkt.toNat) :
    oversize cap payload = false := by
  exact decide_eq_false (Nat.not_lt.mpr h)

/-- Each bound of U13 is tested (R8). -/
theorem cfgLegal_eq_false {c : Cfg} (h : c.freq = 0 ∨ c.nStreams = 0 ∨ 65536 < c.maxCode ∨ 65536 ≤ c.noData ∨
    65536 ≤ c.maxDepth ∨ cfgLegal c = false) : cfgLegal c = false := by
  rcases h with h | h | h | h | h | h
  · simp [cfgLegal, h]
  · simp [cfgLegal, h]
  · simp [cfgLegal, Nat.not_le.mpr h]
  · simp [cfgLegal, Nat.not_lt.mpr h]
  · simp [cfgLegal, Nat.not_lt.mpr h]
  · exact h

end Sys2Proof.Machine

namespace Sys2Proof.Settled

open Machine

/-- Settles O16. -/
theorem refusals : Obligations.Refusals := by
  refine ⟨?host, ?issuer, ?reader, ?noReader, ?selector, ?oversized, ?codec, ?domain⟩
  case host =>
    intro s a sid v table c cal mn mx which idx ha hc i hi
    exact exec_not_host ha hc hi
  case issuer =>
    intro s a op payload ha
    simp [exec, execCtExec, isIssuer_eq_false ha]
  case reader =>
    intro s a sid tick ha
    exact ⟨by simp [exec, execCsTohost, ha], by simp [exec, execCsHostonly, ha]⟩
  case noReader =>
    intro s j sid input hj
    have ha : agentExists s.cfg (.rd j) = false := by simpa [agentExists] using hj
    simp [exec, execBdUnpack, ha, onHost_wrongAgent]
  case selector =>
    intro s a sel args rest hc hs ht hsel
    rw [step_of_port hc hs ht, start_unknownSelector (decodeHostop_unknown a args hsel)]
    rfl
  case oversized =>
    intro s k op id payload hp
    have hov := oversize_eq_true hp
    exact ⟨by simp [exec, execCtFrame, hov], fun hv ho => by simp [exec, execCtExec, isIssuer, hv, ho, hov]⟩
  case codec =>
    intro s a sid c hc
    simp [exec, execPrConfigure, hc]
  case domain =>
    intro s h
    exact step_illegal (cfgLegal_eq_false h)

end Sys2Proof.Settled

end

section
/-! PROOFS. The operations of a command exchange: what an internal operation returns, where an exchange waits, goes on and
ends (R18, R123 to R132). -/

namespace Sys2Proof.Machine

/-! ### The view of an exchange -/

@[simp] theorem State.ctCtx_timeout (s : State) (x : Exchange) : (s.ctCtx x).timeout = s.timeout x.reqOp := rfl

/-- Nothing blocks an exchange that waits for something else than a raw receive (U3). -/
theorem blocked_of_not_receives {c : CtCtx} (h : c.x.phase.receives = false) : c.blocked = false := by
  unfold CtCtx.blocked
  split
  · rfl
  · simp [h]

/-- Nothing blocks an exchange for which no answer is left. -/
theorem blocked_of_no_answer {c : CtCtx} (h : c.io.recvQ = []) : c.blocked = false := by
  simp [CtCtx.blocked, h]

/-- An answer longer than a raw receive takes blocks it (U3, R292). -/
theorem blocked_of_oversize {c : CtCtx} {bytes : List Byte} {q : List RecvAns} (hr : c.x.phase.receives = true)
    (hq : c.io.recvQ = .data bytes :: q) (hl : c.cap.maxPkt.toNat < bytes.length) : c.blocked = true := by
  simp [CtCtx.blocked, hq, hr, answerFits, hl]

theorem answerFits_data {cap : Cap} {bytes : List Byte} (h : bytes.length ≤ cap.maxPkt.toNat) :
    answerFits cap (.data bytes) = true := decide_eq_true h

/-! ### Internal operations of the exchange -/

/-- An internal operation that is not kept from a raw receive leaves its view behind and returns its value. -/
theorem onExchange_next {s : State} {x : Exchange} {f : CtCtx → Ret × CtCtx} {r : Ret} {c : CtCtx}
    (hx : s.exchange = some x) (hf : f (s.ctCtx x) = (r, c)) (hb : r = .waiting → c.blocked = false) :
    s.onExchange f = .next { s with exchange := some c.x, io := c.io, ret := r } := by
  have hn : (decide (r = .waiting) && c.blocked) = false := by
    by_cases hr : r = .waiting
    · simp [hb hr]
    · simp [hr]
  simp [State.onExchange, hx, hf, hn, State.returns]

theorem exec_ctSendr {s : State} {x : Exchange} {frame : List Byte} {p : Progress Unit} {c : CtCtx}
    (hx : s.exchange = some x) (hl : frame.length ≤ s.cap.maxPkt.toNat) (h : ctSendr (s.ctCtx x) frame = (p, c))
    (hb : p = .wait → c.blocked = false) :
    exec (.ctSendr frame) s =
      .next { s with exchange := some c.x, io := c.io, ret := progressRet (fun _ => .ok) p } := by
  rw [exec, execCtSendr, if_neg (Nat.not_lt.mpr hl)]
  exact onExchange_next hx (by simp [h]) (by cases p <;> simp [progressRet, hb])

theorem exec_ctRecvr {s : State} {x : Exchange} {p : Progress (List Byte)} {c : CtCtx} (hx : s.exchange = some x)
    (h : ctRecvr (s.ctCtx x) = (p, c)) (hb : p = .wait → c.blocked = false) :
    exec .ctRecvr s = .next { s with exchange := some c.x, io := c.io, ret := progressRet .bytes p } := by
  rw [exec, execCtRecvr]
  exact onExchange_next hx (by simp [h]) (by cases p <;> simp [progressRet, hb])

theorem exec_ctGather {s : State} {x : Exchange} {chunk : List Byte} {hdr : ReplyHdr} {p : Progress (List Byte)}
    {c : CtCtx} (hx : s.exchange = some x) (h : ctGather (s.ctCtx x) chunk hdr = (p, c))
    (hb : p = .wait → c.blocked = false) :
    exec (.ctGather chunk hdr) s = .next { s with exchange := some c.x, io := c.io, ret := progressRet .bytes p } := by
  rw [exec, execCtGather]
  exact onExchange_next hx (by simp [h]) (by cases p <;> simp [progressRet, hb])

/-! ### `CT.SENDR` -/

/-- The failures `CT.SENDR` repeats, counted from 0 (R125). -/
theorem ctSendr_repeats {c : CtCtx} {fails q : List SendAns} (bytes : List Byte) (hf : ∀ a ∈ fails, a ≠ .ok)
    (hn : fails.length ≤ c.cfg.xportRetries) (hq : c.io.sendQ = fails ++ q) :
    ctSendr c bytes = sendLoop bytes (c.cfg.xportRetries - fails.length) { c with
      x := { c.x with xrCnt := BitVec.ofNat 3 fails.length }
      io := { c.io.puts (List.replicate fails.length (.tx bytes c.timeout)) with sendQ := q } } := by
  have h := sendLoop_repeats bytes fails q hf (c.cfg.xportRetries - fails.length)
    { c with x := { c.x with xrCnt := 0 } } hq
  rw [Nat.sub_add_cancel hn] at h
  rw [ctSendr, h]
  simp [CtCtx.timeout]

/-- The failure an answer other than `Ok` is, with its error and its event (R125, R276). -/
theorem sendFail_of_mem {last : SendAns} {k : ErrKind} {e : Event}
    (h : (last, k, e) ∈ [(SendAns.timeout, ErrKind.transportTimeout, Event.transportTimeout),
      (.stall, .transportStall, .transportStall)]) : ∃ f, sendFail last = some f ∧ f.err = k ∧ f.event = e := by
  simp only [List.mem_cons, Prod.mk.injEq, List.not_mem_nil, or_false] at h
  rcases h with ⟨rfl, rfl, rfl⟩ | ⟨rfl, rfl, rfl⟩
  · exact ⟨.timeout, rfl, rfl, rfl⟩
  · exact ⟨.stall, rfl, rfl, rfl⟩

end Sys2Proof.Machine

namespace Sys2Proof.Settled

open Machine

/-- Settles O25. -/
theorem ctSendr : Obligations.CtSendr := by
  intro s x frame fails q hx hf hl tx
  refine ⟨fun hn hq => ?sent, fun last k e hn hm hq => ?failed, fun hn hq hr => ?waits⟩
  case sent =>
    have h := ctSendr_repeats (c := s.ctCtx x) frame hf hn hq
    rw [sendLoop_ok frame _ rfl] at h
    rw [exec_ctSendr hx hl h nofun]
    simp [progressRet, Io.puts, List.replicate_succ', tx, CtCtx.timeout, State.timeout]
  case failed =>
    obtain ⟨f, hfail, rfl, rfl⟩ := sendFail_of_mem hm
    have h := ctSendr_repeats (c := s.ctCtx x) frame hf (Nat.le_of_eq hn) hq
    rw [State.ctCtx_cfg, hn, Nat.sub_self, sendLoop_fails frame rfl hfail] at h
    rw [exec_ctSendr hx hl h nofun]
    simp [progressRet, Io.puts, List.replicate_succ', tx, CtCtx.timeout, State.timeout, hn]
  case waits =>
    have h := ctSendr_repeats (c := s.ctCtx x) (q := []) frame hf hn (by simpa using hq)
    rw [sendLoop_waits frame _ (by simpa [sendDraw] using hr)] at h
    rw [exec_ctSendr hx hl h fun _ => blocked_of_not_receives rfl]
    simp [progressRet, tx]

end Sys2Proof.Settled

namespace Sys2Proof.Machine

/-! ### `CT.RECVR` -/

/-- The failures `CT.RECVR` repeats, counted from 0 (R126). -/
theorem ctRecvr_repeats {c : CtCtx} {fails q : List RecvAns} (hf : ∀ a ∈ fails, a = .timeout ∨ a = .stall)
    (hn : fails.length ≤ c.cfg.xportRetries) (h7 : c.cfg.xportRetries ≤ 7) (hq : c.io.recvQ = fails ++ q) :
    ctRecvr c = recvDrain q { c with
      x := { c.x with xrCnt := BitVec.ofNat 3 fails.length, phase := c.x.phase.receiving }
      io := c.io.puts (List.replicate fails.length (.rx c.timeout)) } := by
  have h := recvDrain_repeats fails q hf
    { c with x := { c.x with xrCnt := 0, phase := c.x.phase.receiving } } (by simpa using hn) h7
  rw [ctRecvr, hq, h]
  simp [CtCtx.timeout]

/-- A raw receive met by a chunk ends `CT.RECVR` (R126). -/
theorem recvDrain_data {c : CtCtx} {chunk : List Byte} (q : List RecvAns) (h : chunk.length ≤ c.cap.maxPkt.toNat) :
    recvDrain (.data chunk :: q) c = (.done chunk, { c with
      x := { c.x with rxBuf := chunk }, io := { c.io.puts [.rx c.timeout] with recvQ := q } }) := by
  simp [recvDrain, answerFits_data h, recvAnswer, CtCtx.leave, Io.emit, Io.puts]

/-- The two ways a raw receive fails, with the error and the event of each (R126, R276). -/
theorem recvFail_of_mem {last : RecvAns} {k : ErrKind} {e : Event}
    (h : (last, k, e) ∈ [(RecvAns.timeout, ErrKind.transportTimeout, Event.transportTimeout),
      (.stall, .transportStall, .transportStall)]) :
    ∃ f : RawFail, f.err = k ∧ f.event = e ∧ (∀ cap, answerFits cap last = true) ∧
      ∀ c : CtCtx, recvAnswer c last = recvFailed { c with io := c.io.emit (.rx c.timeout) } f := by
  simp only [List.mem_cons, Prod.mk.injEq, List.not_mem_nil, or_false] at h
  rcases h with ⟨rfl, rfl, rfl⟩ | ⟨rfl, rfl, rfl⟩
  · exact ⟨.timeout, rfl, rfl, fun _ => rfl, fun _ => rfl⟩
  · exact ⟨.stall, rfl, rfl, fun _ => rfl, fun _ => rfl⟩

/-- A failure with no repeat left is the error, raised once (R126). -/
theorem recvFailed_last {c : CtCtx} (f : RawFail) (h : c.cfg.xportRetries ≤ c.x.xrCnt.toNat) :
    recvFailed c f = (.fail f.err, c.raise f.event) := if_pos h

/-- A failure with a repeat left is counted (R126). -/
theorem recvFailed_repeats {c : CtCtx} (f : RawFail) (h : c.x.xrCnt.toNat < c.cfg.xportRetries) :
    recvFailed c f = (.wait, { c with x := { c.x with xrCnt := c.x.xrCnt + 1 } }) := if_neg (Nat.not_le.mpr h)

end Sys2Proof.Machine

namespace Sys2Proof.Settled

open Machine

/-- Settles O26. -/
theorem ctRecvr : Obligations.CtRecvr := by
  intro s x fails q hx hf h7 rx y
  refine ⟨fun chunk hn hq hc => ?received, fun last k e hn hm hq => ?failed, fun hn hq => ?waits⟩
  case received =>
    have h := ctRecvr_repeats (c := s.ctCtx x) hf hn h7 hq
    rw [recvDrain_data q hc] at h
    rw [exec_ctRecvr hx h nofun]
    simp [progressRet, Io.puts, List.replicate_succ', rx, y, CtCtx.timeout, State.timeout]
  case failed =>
    obtain ⟨f, rfl, rfl, hfit, hans⟩ := recvFail_of_mem hm
    have h := ctRecvr_repeats (c := s.ctCtx x) hf (Nat.le_of_eq hn) h7 hq
    have hcount : (BitVec.ofNat 3 fails.length).toNat = s.cfg.xportRetries := by
      simp only [BitVec.toNat_ofNat]
      omega
    rw [recvDrain, if_pos (hfit _), hans, recvFailed_last f (by simp [hcount])] at h
    rw [exec_ctRecvr hx h nofun]
    simp [progressRet, Io.puts, Io.emit, Io.raise, CtCtx.raise, List.replicate_succ', rx, y, CtCtx.timeout, State.timeout]
  case waits =>
    have h := ctRecvr_repeats (c := s.ctCtx x) (q := []) hf hn h7 (by simpa using hq)
    rw [recvDrain] at h
    rw [exec_ctRecvr hx h fun _ => blocked_of_no_answer rfl]
    simp [progressRet, rx, y]

end Sys2Proof.Settled

end

section
/-! PROOFS. The exchange as a whole: where it waits and goes on, how it ends, and what the environment supplies to it (R10,
R18, R110, R123). -/

namespace Sys2Proof.Machine

/-! ### The not-ready loop and the end of an exchange -/

/-- The not-ready loop passes on whatever is not the not-ready error (R123, R132). -/
theorem execLoop_passes {p : Progress ExecResult} (left : Nat) (c : CtCtx)
    (h : p.result ≠ some (.err .deviceNotReady)) : execLoop left (p, c) = (p.result, c) := by
  cases left with
  | zero => rfl
  | succ left => rw [execLoop, if_neg h]

theorem execLoop_wait (left : Nat) (c : CtCtx) : execLoop left (.wait, c) = (none, c) :=
  execLoop_passes left c (by simp [Progress.result])

/-- An exchange that waits, and that nothing blocks, stays in flight (R18). -/
theorem settle_waits {s : State} {c : CtCtx} (hb : c.blocked = false) :
    s.settle (none, c) = .next { s with exchange := some c.x, io := c.io, ret := .waiting } := by
  simp [State.settle, hb]

/-- The inter-command delay is the only thing put out after a command (R134). -/
theorem afterCommand_eq_puts (s : State) (op : Half) (r : ExecResult) (io : Io) :
    afterCommand s.cap op r io = io.puts (s.delays op r) := by
  cases r with
  | err k => simp [afterCommand, State.delays]
  | ok data =>
    simp only [afterCommand, State.delays]
    split
    · simp
    · rfl

/-- An exchange with its result frees the lock and returns (R123). -/
theorem settle_ends (s : State) (c : CtCtx) (r : ExecResult) :
    s.settle (some r, c) = .next { s with
      exchange := none, cmdLock := none, ret := .exec r
      io := c.io.puts (s.delays c.x.reqOp r ++ [.result c.x.owner (.exec r)]) } := by
  simp [State.settle, afterCommand_eq_puts, State.reply, emit_eq_puts]

/-! ### Going on -/

theorem resumeExchange_eq {s : State} {x : Exchange} (hx : s.exchange = some x) :
    s.resumeExchange = s.settle (execLoop (repeatsLeft (attemptResume (s.ctCtx x)).2) (attemptResume (s.ctCtx x))) := by
  simp [State.resumeExchange, hx]

/-- An exchange that comes to its next wait stays in flight there (R18). -/
theorem resumeExchange_waits {s : State} {x : Exchange} {c : CtCtx} (hx : s.exchange = some x)
    (h : attemptResume (s.ctCtx x) = (.wait, c)) (hb : c.blocked = false) :
    s.resumeExchange = .next { s with exchange := some c.x, io := c.io, ret := .waiting } := by
  rw [resumeExchange_eq hx, h, execLoop_wait]
  exact settle_waits hb

/-- An exchange whose attempt ends otherwise than not ready returns its result (R123). -/
theorem resumeExchange_ends {s : State} {x : Exchange} {p : Progress ExecResult} {c : CtCtx} {r : ExecResult}
    (hx : s.exchange = some x) (h : attemptResume (s.ctCtx x) = (p, c)) (hp : p.result = some r)
    (hr : r ≠ .err .deviceNotReady) :
    s.resumeExchange = .next { s with
      exchange := none, cmdLock := none, ret := .exec r
      io := c.io.puts (s.delays c.x.reqOp r ++ [.result c.x.owner (.exec r)]) } := by
  rw [resumeExchange_eq hx, h, execLoop_passes _ _ (by simpa [hp] using hr), hp]
  exact settle_ends s c r

/-- An exchange that waits for a raw receive goes on by the answers at hand. -/
theorem attemptResume_receives {c : CtCtx} (h : c.x.phase.receives = true) :
    attemptResume c = attemptDrain c.io.recvQ c := by
  unfold attemptResume
  split <;> simp_all [CtPhase.receives, received]

/-- The state with answers queued behind those at `CTRL_RX` (R10). -/
def State.queued (s : State) (vs : List RecvAns) : State := { s with io := { s.io with recvQ := s.io.recvQ ++ vs } }

theorem supply_recv (s : State) (vs : List RecvAns) : s.supply (.recv vs) = s.receive vs := rfl

/-- Answers that no exchange waits for stay in the channel (R139, U21). -/
theorem receive_stays {s : State} (vs : List RecvAns) (h : ∀ x, s.exchange = some x → x.phase.receives = false) :
    s.receive vs = .next (s.queued vs) := by
  have hr : (s.queued vs).receiving = false := by
    cases hx : s.exchange with
    | none => simp [State.receiving, State.queued, hx]
    | some x => simpa [State.receiving, State.queued, hx] using h x hx
  unfold State.receive
  exact if_neg (Bool.not_eq_true _ ▸ hr)

/-- Answers take on an exchange that waits for one (R10, R292). -/
theorem receive_resumes {s : State} {x : Exchange} (vs : List RecvAns) (hx : s.exchange = some x)
    (hr : x.phase.receives = true) : s.receive vs = (s.queued vs).resumeExchange := by
  have hr' : (s.queued vs).receiving = true := by simpa [State.receiving, State.queued, hx] using hr
  unfold State.receive
  exact if_pos hr'

/-- A raw receive is met by no answer of more bytes than it takes (U3, R292). -/
theorem resumeExchange_oversize {s : State} {x : Exchange} {bytes : List Byte} {q : List RecvAns}
    (hx : s.exchange = some x) (hr : x.phase.receives = true) (hq : s.io.recvQ = .data bytes :: q)
    (hl : s.cap.maxPkt.toNat < bytes.length) : s.resumeExchange = .refused .oversizeAnswer := by
  have hfit : (x.phase.receives && answerFits s.cap (.data bytes)) = false := by simp [answerFits, hl]
  have hres : attemptResume (s.ctCtx x) = (.wait, (s.ctCtx x).leave (.data bytes :: q)) := by
    rw [attemptResume_receives hr, State.ctCtx_io, hq, attemptDrain]
    exact if_neg (by simp [hfit])
  have hb : ((s.ctCtx x).leave (.data bytes :: q)).blocked = true := blocked_of_oversize hr rfl hl
  rw [resumeExchange_eq hx, hres, execLoop_wait]
  simp [State.settle, hb]

end Sys2Proof.Machine

namespace Sys2Proof.Settled

open Machine

/-- Settles O6. -/
theorem envSupplies : Obligations.EnvSupplies := by
  refine ⟨?turns, ?queue, ?steady, ?silent⟩
  case turns =>
    intro s x rest hc hs ht t
    refine ⟨?_, ?_, ?_, ?_, ?_⟩
    · rintro vs r rfl
      exact step_of_supply hc hs (by simp) ht
    · rintro vs r rfl
      exact step_of_supply hc hs (by simp) ht
    · rintro b rfl
      exact step_of_supply hc hs (by simp) ht
    · rintro vs rfl hx
      rw [step_of_supply hc hs (by simp) ht, supply_recv]
      exact receive_stays vs hx
    · rintro y bytes rfl hy hp hq hl
      have hr : y.phase.receives = true := by
        obtain hp | ⟨size, hp⟩ := hp <;> rw [hp] <;> rfl
      rw [step_of_supply hc hs (by simp) ht, supply_recv, receive_resumes (s := s.stimulated rest) _ hy hr]
      exact resumeExchange_oversize (q := []) hy hr (by simp [State.queued, State.stimulated, hq]) hl
  case queue =>
    intro io v vs hq
    simp [hostClock, clockDraw, hq, BitVec.lt_def]
  case steady =>
    intro io v h
    exact hostClock_steady h
  case silent =>
    intro io hq hr
    simp [hostClock, clockDraw, hq, hr]

end Sys2Proof.Settled

namespace Sys2Proof.Machine

/-! ### A new exchange -/

/-- A supported request that fits, with the lock free and granted, begins its exchange (R123). -/
theorem exec_ctExec_begins {s : State} {k : Nat} {op : Half} {payload : List Byte} (hv : s.capValid = true)
    (ho : opLookup s.cap.opValid op = true) (hf : s.cmdHeld = false) (hg : s.io.grantLocks = true) :
    exec (.ctExec (.ci k) op payload) s = s.beginExchange (.ci k) op payload := by
  by_cases hp : oversize s.cap payload = true
  · simp [exec, execCtExec, State.beginExchange, isIssuer, hv, ho, hp]
  · simp [exec, execCtExec, isIssuer, hv, ho, hp, hf, hg]

/-- At a lock that is held or withheld a supported request that fits waits as admitted (R72, R76; log entry 12). -/
theorem exec_ctExec_admitted {s : State} {k : Nat} {op : Half} {payload : List Byte} (hv : s.capValid = true)
    (ho : opLookup s.cap.opValid op = true) (hp : oversize s.cap payload = false)
    (hf : s.cmdHeld = true ∨ s.io.grantLocks = false) :
    exec (.ctExec (.ci k) op payload) s = .next
      { s with admitted := s.admitted ++ [⟨.ci k, op, payload⟩], ret := .waiting } := by
  have hw : (s.cmdHeld || !s.io.grantLocks) = true := by simpa using hf
  simp [exec, execCtExec, isIssuer, hv, ho, hp, hw]

/-- The view of the exchange a command begins: the lock is taken, and the next id (R123). -/
def State.newCtx (s : State) (a : Agent) (op : Half) (payload : List Byte) : CtCtx :=
  s.ctCtx (newExchange s a op payload)

/-- A new exchange that comes to a wait is in flight there, under its lock, its id taken (R18, R123). -/
theorem beginExchange_waits {s : State} {a : Agent} {op : Half} {payload : List Byte} {c : CtCtx}
    (hp : oversize s.cap payload = false) (h : ctAttempt (s.newCtx a op payload) = (.wait, c))
    (hb : c.blocked = false) :
    s.beginExchange a op payload = .next { s with
      cmdLock := some a, nextId := nextCorrelation s.cfg s.nextId, exchange := some c.x, io := c.io
      ret := .waiting } := by
  have h' : ctAttempt (State.ctCtx { s with cmdLock := some a, nextId := nextCorrelation s.cfg s.nextId }
      (newExchange s a op payload)) = (.wait, c) := h
  simp only [State.beginExchange, hp, h', execLoop_wait]
  exact settle_waits hb

/-! ### An attempt up to its first wait -/

/-- A sum of start and timeout that 64 bits hold is the deadline (R127, R135). -/
theorem attemptDeadline_fits {now : Micros} {t : Word} (n : Nat)
    (h : now.toNat + t.toNat < 18446744073709551616) : attemptDeadline n now t = now + t.setWidth 64 := if_pos h

/-- A timeout that is not 0 sets a deadline that lies ahead. -/
theorem lt_deadline {now : Micros} {t : Word} (h : now.toNat + t.toNat < 18446744073709551616) (ht : 0 < t.toNat) :
    now < now + t.setWidth 64 := by
  bv_omega

theorem ctAttempt_no_clock {c : CtCtx} (h : hostClock c.io = none) : ctAttempt c = (.wait, c.at .start) := by
  simp [ctAttempt, h]

/-- The view of an attempt that starts at `now`, its deadline set (R127). -/
def CtCtx.started (c : CtCtx) (now : Micros) : CtCtx :=
  { c with io := c.io.reads now 1, x := { c.x with deadline := now + c.timeout.setWidth 64 } }

/-- With an answer of the clock an attempt sets its deadline and sends its frame (R127). -/
theorem ctAttempt_steady {c : CtCtx} {now : Micros} (hs : ClockSteady c.io now)
    (h : now.toNat + c.timeout.toNat < 18446744073709551616) :
    ctAttempt c = attemptSent (ctSendr (c.started now) c.x.reqFrame) := by
  simp only [ctAttempt, hostClock_steady hs, attemptDeadline_fits _ h]
  rfl

theorem ctSendr_waits {c : CtCtx} (bytes : List Byte) (h : sendDraw c.io = none) :
    ctSendr c bytes = (.wait, { c with x := { c.x with xrCnt := 0, phase := .send bytes } }) :=
  sendLoop_waits bytes _ h

/-- A frame that is out, with time left: the attempt waits for its reply, where none is at hand (R127). -/
theorem attemptSent_polls {c : CtCtx} {now : Micros} (hs : ClockSteady c.io now) (hd : now < c.x.deadline)
    (hq : c.io.recvQ = []) :
    attemptSent (.done (), c) =
      (.wait, { c with io := c.io.reads now 1, x := { c.x with xrCnt := 0, phase := .reply } }) := by
  have hr : c.io.reads now 1 = { c.io.reads now 1 with recvQ := [] } := by rw [← hq]; rfl
  rw [attemptSent, replyNext, ctPoll_before _ hs hd, received, Io.reads_recvQ, hq, attemptDrain, CtCtx.leave, ← hr]
  rfl

/-- An attempt whose frame is sent, with time left and no reply at hand, waits for one (R127). -/
theorem ctAttempt_polls {c : CtCtx} {now : Micros} (hs : ClockSteady c.io now)
    (h : now.toNat + c.timeout.toNat < 18446744073709551616) (ht : 0 < c.timeout.toNat)
    (hk : sendDraw c.io = some .ok) (hq : c.io.recvQ = []) :
    ctAttempt c = (.wait, { c with
      io := { (c.io.reads now 2).puts [.tx c.x.reqFrame c.timeout] with sendQ := c.io.sendQ.tail }
      x := { c.x with deadline := now + c.timeout.setWidth 64, xrCnt := 0, phase := .reply } }) := by
  have hsend := ctSendr_ok (c := c.started now) c.x.reqFrame hk
  rw [ctAttempt_steady hs h, hsend]
  exact attemptSent_polls (now := now) (clockSteady_reads hs 1) (lt_deadline h ht) hq

end Sys2Proof.Machine

namespace Sys2Proof.Settled

open Machine

/-- Settles O23. -/
theorem ctExecWaits : Obligations.CtExecWaits := by
  refine ⟨?flies, ?admitted, ?turn⟩
  case flies =>
    intro s k op payload hv ho hl hlock hg frame flies
    have hp := oversize_eq_false hl
    have begins {c : CtCtx} (h : ctAttempt (s.newCtx (.ci k) op payload) = (.wait, c)) (hb : c.blocked = false) :=
      (exec_ctExec_begins (payload := payload) (k := k) hv ho (by simp [State.cmdHeld, hlock]) hg).trans
        (beginExchange_waits hp h hb)
    refine ⟨fun hc => begins (ctAttempt_no_clock hc) (blocked_of_not_receives rfl), ?_⟩
    intro now hs hsum deadline
    refine ⟨fun hk => ?_, fun hk ht hq => ?_⟩
    · have h := ctAttempt_steady (c := s.newCtx (.ci k) op payload) hs hsum
      rw [ctSendr_waits (c := (s.newCtx (.ci k) op payload).started now) _ hk] at h
      exact begins h (blocked_of_not_receives rfl)
    · exact begins (ctAttempt_polls hs hsum ht hk hq) (blocked_of_no_answer hq)
  case admitted =>
    intro s k op payload hv ho hl hlock
    exact exec_ctExec_admitted hv ho (oversize_eq_false hl) (by simpa [State.cmdHeld, Option.isSome_iff_ne_none] using hlock)
  case turn =>
    intro s j k op payload hc ht hj hv ho
    obtain ⟨hf, hg⟩ := lock_free_of_admitted_turn ht
    rw [exec_ctExec_begins (s := { s with choices := s.choicesAfter, admitted := s.admitted.eraseIdx j }) hv ho hf hg,
      step_of_turn hc ht]
    simp [State.take, State.chosen, State.perform, hj]

end Sys2Proof.Settled
end

section
/-! PROOFS. Gathering a reply's body over several receives (R98, R130), and all that an exchange in flight can be met by
(R126 to R130). -/

namespace Sys2Proof.Machine

/-- A poll without an answer of the clock waits there (R18). -/
theorem ctPoll_no_clock {α : Type} {c : CtCtx} (p : CtPhase) (h : hostClock c.io = none) :
    ctPoll (α := α) c p = (.wait, c.at p) := by
  simp [ctPoll, h]

/-! ### What `BODY` holds -/

/-- `BODY` holds bytes that fit it; beyond `BODY_MAX` only their number is stated (log entry 39). -/
abbrev BodyHolds (cfg : Cfg) (bytes body : List Byte) : Prop :=
  (bytes.length ≤ cfg.bodyMax → body = bytes) ∧ (cfg.bodyMax < bytes.length → body.length = cfg.bodyMax)

/-- A body that grows holds the longer string (R130). -/
theorem bodyGrown_holds {c : CtCtx} {bytes : List Byte} (d : List Byte) (hb : BodyHolds c.cfg bytes c.x.body)
    (hl : c.x.bodyLen.toNat = bytes.length) : BodyHolds c.cfg (bytes ++ d) (bodyGrown c d).x.body := by
  rw [BodyHolds, List.length_append, ← hl]
  refine ⟨fun h => ?_, fun h => bodyGrown_beyond h⟩
  rw [bodyGrown_fits h, hb.1 (by omega)]

/-- Growing changes the body and its length alone. -/
theorem bodyGrown_eq (c : CtCtx) (d : List Byte) : bodyGrown c d = { c with x := { c.x with
    body := (bodyGrown c d).x.body, bodyLen := BitVec.ofNat 16 (c.x.bodyLen.toNat + d.length) } } := rfl

/-- `CT.GATHER` is done once the declared bytes are there (R130). -/
theorem gatherNext_done {c : CtCtx} {size : Half} (h : size ≤ c.x.bodyLen) :
    gatherNext c size = (.done c.x.body, c) := if_pos h

/-- Short of them it tests the deadline (R130). -/
theorem gatherNext_polls {c : CtCtx} {size : Half} (h : c.x.bodyLen < size) :
    gatherNext c size = ctPoll c (.pollBody size) := if_neg (BitVec.not_le.mpr h)

/-- The view after a raw receive of `d` (R126). -/
def CtCtx.taking (c : CtCtx) (d : List Byte) : CtCtx :=
  { c with io := c.io.puts [.rx c.timeout], x := { c.x with rxBuf := d } }

theorem recvAnswer_data (c : CtCtx) (d : List Byte) : recvAnswer c (.data d) = (.done d, c.taking d) := rfl

/-- A continuation chunk is taken verbatim, its surplus dropped (R98, R130). -/
theorem gatherAnswer_data (c : CtCtx) (size : Half) (d : List Byte) :
    gatherAnswer c size (.data d) =
      gatherNext (bodyGrown (c.taking d) (d.take (size.toNat - c.x.bodyLen.toNat))) size := rfl

theorem ofNat_toNat_of_le {size : Half} {n : Nat} (h : n ≤ size.toNat) : (BitVec.ofNat 16 n).toNat = n := by
  have := size.isLt
  rw [BitVec.toNat_ofNat, Nat.mod_eq_of_lt (by omega)]

/-! ### `CT.GATHER` -/

/-- The body bytes that came with the header (R130). -/
def firstBytes (chunk : List Byte) (h : ReplyHdr) : List Byte := (chunk.drop (h.p + 8)).take h.size.toNat

/-- `BODY` and `BODY_LEN` emptied for a new body (R130). -/
def CtCtx.emptied (c : CtCtx) : CtCtx := { c with x := { c.x with body := [], bodyLen := 0 } }

/-- `BODY` once it has taken its first bytes. -/
def CtCtx.firstBody (c : CtCtx) (bytes : List Byte) : List Byte := (bodyGrown c.emptied bytes).x.body

theorem firstBody_holds (c : CtCtx) (bytes : List Byte) : BodyHolds c.cfg bytes (c.firstBody bytes) :=
  bodyGrown_holds (c := c.emptied) (bytes := []) bytes ⟨fun _ => rfl, nofun⟩ rfl

theorem gatherStart_eq (c : CtCtx) (chunk : List Byte) (h : ReplyHdr) :
    gatherStart c chunk h = gatherNext { c with x := { c.x with
      body := c.firstBody (firstBytes chunk h)
      bodyLen := BitVec.ofNat 16 (firstBytes chunk h).length } } h.size := by
  have hg := bodyGrown_eq c.emptied (firstBytes chunk h)
  rw [show (c.emptied.x.bodyLen.toNat + (firstBytes chunk h).length) = (firstBytes chunk h).length from
    Nat.zero_add _] at hg
  exact congrArg (gatherNext · h.size) hg

/-- An exchange that gathers and has taken `k` continuation chunks, a poll before each receive, and waits for the next: the
last chunk, the bytes so far, and what `BODY` holds of them. -/
def CtCtx.gathering (c : CtCtx) (now : Micros) (size : Half) (k : Nat) (last bytes body : List Byte) : CtCtx :=
  { c with
    x := { c.x with body := body, bodyLen := BitVec.ofNat 16 bytes.length, rxBuf := last, xrCnt := 0, phase := .body size }
    io := (c.io.reads now (k + 1)).puts (List.replicate k (.rx c.timeout)) }

/-- The first bytes of a body that needs more: the exchange polls and waits for the rest (R130). -/
theorem gatherStart_waits {c : CtCtx} {now : Micros} {chunk : List Byte} {h : ReplyHdr} (hs : ClockSteady c.io now)
    (hd : now < c.x.deadline) (hl : (firstBytes chunk h).length < h.size.toNat) :
    gatherStart c chunk h = (.wait, c.gathering now h.size 0 c.x.rxBuf (firstBytes chunk h)
      (c.firstBody (firstBytes chunk h))) := by
  have hlt : BitVec.ofNat 16 (firstBytes chunk h).length < h.size := by
    rw [BitVec.lt_def, ofNat_toNat_of_le (Nat.le_of_lt hl)]
    exact hl
  rw [gatherStart_eq, gatherNext_polls hlt, ctPoll_before (now := now) _ (by exact hs) (by exact hd)]
  simp [CtCtx.gathering, CtPhase.receiving]

section Continuation

variable {c : CtCtx} {now : Micros} {size : Half} {k : Nat} {last bytes body d : List Byte}

/-- The view after a continuation chunk `d`, the body grown by what of it is taken. -/
def CtCtx.continued (c : CtCtx) (now : Micros) (size : Half) (k : Nat) (last bytes body d : List Byte) : CtCtx :=
  bodyGrown ((c.gathering now size k last bytes body).taking d) (d.take (size.toNat - bytes.length))

theorem gatherAnswer_gathering (hl : bytes.length ≤ size.toNat) :
    gatherAnswer (c.gathering now size k last bytes body) size (.data d) =
      gatherNext (c.continued now size k last bytes body d) size := by
  rw [gatherAnswer_data]
  show gatherNext (bodyGrown _ (d.take (size.toNat - (BitVec.ofNat 16 bytes.length).toNat))) size = _
  rw [ofNat_toNat_of_le hl]
  rfl

theorem continued_eq (hl : bytes.length ≤ size.toNat) :
    c.continued now size k last bytes body d = { c.gathering now size k last bytes body with
      x := { (c.gathering now size k last bytes body).x with
        body := (c.continued now size k last bytes body d).x.body
        bodyLen := BitVec.ofNat 16 (bytes ++ d.take (size.toNat - bytes.length)).length
        rxBuf := d }
      io := (c.io.reads now (k + 1)).puts (List.replicate (k + 1) (.rx c.timeout)) } := by
  have hlen : (BitVec.ofNat 16 bytes.length).toNat = bytes.length := ofNat_toNat_of_le hl
  have hbody := bodyGrown_eq ((c.gathering now size k last bytes body).taking d) (d.take (size.toNat - bytes.length))
  rw [CtCtx.continued, hbody]
  simp [CtCtx.gathering, CtCtx.taking, hlen, List.replicate_succ', CtCtx.timeout]

theorem continued_holds (hl : bytes.length ≤ size.toNat) (hb : BodyHolds c.cfg bytes body) :
    BodyHolds c.cfg (bytes ++ d.take (size.toNat - bytes.length)) (c.continued now size k last bytes body d).x.body :=
  bodyGrown_holds (c := (c.gathering now size k last bytes body).taking d) _ hb (ofNat_toNat_of_le hl)

/-- A continuation chunk that leaves the body short: the exchange polls and waits for the next (R130). -/
theorem gatherAnswer_continues (hs : ClockSteady c.io now) (hd : now < c.x.deadline) (hb : BodyHolds c.cfg bytes body)
    (hl : bytes.length + d.length < size.toNat) :
    ∃ body', BodyHolds c.cfg (bytes ++ d) body' ∧ gatherAnswer (c.gathering now size k last bytes body) size (.data d) =
      (.wait, c.gathering now size (k + 1) d (bytes ++ d) body') := by
  have hle : bytes.length ≤ size.toNat := by omega
  have hholds := continued_holds (now := now) (k := k) (last := last) (d := d) hle hb
  have heq := continued_eq (c := c) (now := now) (k := k) (last := last) (body := body) (d := d) hle
  rw [List.take_of_length_le (by omega)] at hholds heq
  have hlen : (BitVec.ofNat 16 (bytes ++ d).length).toNat = (bytes ++ d).length :=
    ofNat_toNat_of_le (size := size) (by simp; omega)
  have hshort : (c.continued now size k last bytes body d).x.bodyLen < size := by
    rw [heq, BitVec.lt_def, hlen, List.length_append]
    exact hl
  refine ⟨_, hholds, ?_⟩
  rw [gatherAnswer_gathering hle, gatherNext_polls hshort,
    ctPoll_before (now := now) _ (by rw [heq]; exact clockSteady_reads hs (k + 1))
    (by rw [heq]; exact hd), heq]
  simp [CtCtx.gathering, CtPhase.receiving]

/-- A continuation chunk that completes the body ends `CT.GATHER`, without a poll (R130). -/
theorem gatherAnswer_completes (hb : BodyHolds c.cfg bytes body) (hl : bytes.length ≤ size.toNat)
    (hd : size.toNat ≤ bytes.length + d.length) :
    ∃ body', BodyHolds c.cfg ((bytes ++ d).take size.toNat) body' ∧
      gatherAnswer (c.gathering now size k last bytes body) size (.data d) =
        (.done body', { c.gathering now size k last bytes body with
          x := { (c.gathering now size k last bytes body).x with body := body', bodyLen := size, rxBuf := d }
          io := (c.io.reads now (k + 1)).puts (List.replicate (k + 1) (.rx c.timeout)) }) := by
  have hholds := continued_holds (now := now) (k := k) (last := last) (d := d) hl hb
  have heq := continued_eq (c := c) (now := now) (k := k) (last := last) (body := body) (d := d) hl
  have hsize : (bytes ++ d.take (size.toNat - bytes.length)).length = size.toNat := by simp; omega
  rw [hsize, BitVec.ofNat_toNat, BitVec.setWidth_eq] at heq
  have hdone : size ≤ (c.continued now size k last bytes body d).x.bodyLen := by
    rw [heq]
    exact BitVec.le_refl _
  refine ⟨_, by rw [List.take_append, List.take_of_length_le hl]; exact hholds, ?_⟩
  rw [gatherAnswer_gathering hl, gatherNext_done hdone]
  exact congrArg (Progress.done _, ·) heq

end Continuation

/-- The continuation chunks that leave the body short, one after another (R130). -/
theorem gatherDrain_parts {c : CtCtx} {now : Micros} {size : Half} (hs : ClockSteady c.io now)
    (hd : now < c.x.deadline) (q : List RecvAns) (parts : List (List Byte)) :
    ∀ (k : Nat) (last bytes body : List Byte), BodyHolds c.cfg bytes body →
      (∀ d ∈ parts, d.length ≤ c.cap.maxPkt.toNat) → bytes.length + parts.flatten.length < size.toNat →
      ∃ last' body', BodyHolds c.cfg (bytes ++ parts.flatten) body' ∧
        gatherDrain size (parts.map RecvAns.data ++ q) (c.gathering now size k last bytes body) =
          gatherDrain size q (c.gathering now size (k + parts.length) last' (bytes ++ parts.flatten) body') := by
  induction parts with
  | nil =>
    intro k last bytes body hb _ _
    exact ⟨last, body, by simpa using hb, by simp⟩
  | cons d parts ih =>
    intro k last bytes body hb hfit hl
    rw [List.flatten_cons, List.length_append] at hl
    obtain ⟨body₁, hb₁, hstep⟩ :=
      gatherAnswer_continues (k := k) (last := last) (d := d) (size := size) hs hd hb (by omega)
    obtain ⟨last', body', hb', hrest⟩ := ih (k + 1) d (bytes ++ d) body₁ hb₁ (fun e he => hfit e (by simp [he]))
      (by rw [List.length_append]; omega)
    refine ⟨last', body', by simpa using hb', ?_⟩
    have hmeets : ((c.gathering now size k last bytes body).x.phase.receives &&
        answerFits (c.gathering now size k last bytes body).cap (.data d)) = true := answerFits_data (hfit d (by simp))
    rw [List.map_cons, List.cons_append, gatherDrain, if_pos hmeets, hstep]
    simpa [Nat.add_assoc, Nat.add_comm 1] using hrest

section Gather

variable {c : CtCtx} {chunk : List Byte} {h : ReplyHdr}

theorem ctGather_of_done {b : List Byte} {d : CtCtx} (hs : gatherStart c chunk h = (.done b, d)) :
    ctGather c chunk h = (.done b, d) := by
  simp [ctGather, hs]

theorem ctGather_of_fail {k : ErrKind} {d : CtCtx} (hs : gatherStart c chunk h = (.fail k, d)) :
    ctGather c chunk h = (.fail k, d) := by
  simp [ctGather, hs]

theorem ctGather_of_wait {d : CtCtx} (hs : gatherStart c chunk h = (.wait, d)) :
    ctGather c chunk h = gatherDrain h.size d.io.recvQ d := by
  simp [ctGather, hs]

/-- Without an answer that can meet it an exchange that gathers stays as it is. -/
theorem gatherDrain_stays (size : Half) (hr : c.x.phase.receives = false ∨ c.io.recvQ = []) :
    gatherDrain size c.io.recvQ c = (.wait, c) := by
  cases hq : c.io.recvQ with
  | nil => rw [gatherDrain, CtCtx.leave, ← hq]
  | cons a q =>
    have hr : c.x.phase.receives = false := by simpa [hq] using hr
    rw [gatherDrain, if_neg (by simp [hr]), CtCtx.leave, ← hq]

/-- A body that lies whole in its first chunk is gathered without a poll or a receive (R130). -/
theorem ctGather_whole (hl : h.size.toNat ≤ (chunk.drop (h.p + 8)).length) :
    ctGather c chunk h = (.done (c.firstBody (firstBytes chunk h)),
      { c with x := { c.x with body := c.firstBody (firstBytes chunk h), bodyLen := h.size } }) := by
  have hlen : (firstBytes chunk h).length = h.size.toNat := by simpa [firstBytes] using hl
  have hstart := gatherStart_eq c chunk h
  rw [hlen, BitVec.ofNat_toNat, BitVec.setWidth_eq, gatherNext_done (BitVec.le_refl _)] at hstart
  exact ctGather_of_done hstart

/-- A body over several receives: a poll before each, the surplus of the last dropped (R98, R130). -/
theorem ctGather_several {now : Micros} {parts : List (List Byte)} {last : List Byte} {q : List RecvAns}
    (hs : ClockSteady c.io now) (hd : now < c.x.deadline)
    (hshort : (chunk.drop (h.p + 8)).length + parts.flatten.length < h.size.toNat)
    (hlast : h.size.toNat ≤ (chunk.drop (h.p + 8)).length + parts.flatten.length + last.length)
    (hfit : ∀ d ∈ parts ++ [last], d.length ≤ c.cap.maxPkt.toNat)
    (hq : c.io.recvQ = (parts ++ [last]).map RecvAns.data ++ q) :
    ∃ body, BodyHolds c.cfg ((chunk.drop (h.p + 8) ++ parts.flatten ++ last).take h.size.toNat) body ∧
      ctGather c chunk h = (.done body, { c with
        x := { c.x with body := body, bodyLen := h.size, rxBuf := last, xrCnt := 0, phase := .body h.size }
        io := { (c.io.reads now (parts.length + 1)).puts (List.replicate (parts.length + 1) (.rx c.timeout)) with
                  recvQ := q } }) := by
  have hall : firstBytes chunk h = chunk.drop (h.p + 8) := List.take_of_length_le (by omega)
  have hstart := gatherStart_waits (chunk := chunk) (h := h) hs hd (by rw [hall]; omega)
  have hfirst := firstBody_holds c (firstBytes chunk h)
  rw [hall] at hfirst hstart
  obtain ⟨last', body₁, hb₁, hdrain⟩ := gatherDrain_parts hs hd (.data last :: q) parts 0 c.x.rxBuf _ _ hfirst
    (fun d hd => hfit d (by simp [hd])) hshort
  obtain ⟨body, hb, hend⟩ :=
    gatherAnswer_completes (now := now) (size := h.size) (k := 0 + parts.length) (last := last') (d := last) hb₁
    (by rw [List.length_append]; omega) (by rw [List.length_append]; omega)
  have hmeets : answerFits c.cap (.data last) = true := answerFits_data (hfit last (by simp))
  refine ⟨body, hb, ?_⟩
  rw [ctGather_of_wait hstart]
  show gatherDrain h.size c.io.recvQ _ = _
  rw [hq, List.map_append, List.append_assoc]
  refine hdrain.trans ?_
  rw [gatherDrain, if_pos (by exact hmeets), hend]
  simp [CtCtx.leave, CtCtx.gathering]

/-- The view of an exchange that has taken the first bytes of a body. -/
def CtCtx.begun (c : CtCtx) (bytes : List Byte) : CtCtx :=
  { c with x := { c.x with body := c.firstBody bytes, bodyLen := BitVec.ofNat 16 bytes.length } }

/-- A body that needs more bytes than came with its header: the deadline is tested (R130). -/
theorem gatherStart_polls (hl : (chunk.drop (h.p + 8)).length < h.size.toNat) :
    gatherStart c chunk h = ctPoll (c.begun (chunk.drop (h.p + 8))) (.pollBody h.size) := by
  have hall : firstBytes chunk h = chunk.drop (h.p + 8) := List.take_of_length_le (by omega)
  have hlt : BitVec.ofNat 16 (chunk.drop (h.p + 8)).length < h.size := by
    rw [BitVec.lt_def, ofNat_toNat_of_le (Nat.le_of_lt hl)]
    exact hl
  rw [gatherStart_eq, hall]
  exact gatherNext_polls hlt

end Gather

end Sys2Proof.Machine

namespace Sys2Proof.Settled

open Machine

/-- Settles O29. -/
theorem ctGather : Obligations.CtGather := by
  intro s x chunk h hx _ first size t held
  refine ⟨fun hl => ?whole, fun now parts last q hs hd hshort hlast hfit hq => ?several, fun hl => ?short⟩
  case whole =>
    exact ⟨_, firstBody_holds (s.ctCtx x) _, exec_ctGather hx (ctGather_whole hl) (by simp)⟩
  case several =>
    obtain ⟨body, hb, hg⟩ := ctGather_several (c := s.ctCtx x) hs hd hshort hlast hfit hq
    exact ⟨body, hb, exec_ctGather hx hg (by simp)⟩
  case short =>
    have hstart := gatherStart_polls (c := s.ctCtx x) hl
    refine ⟨_, firstBody_holds (s.ctCtx x) first, fun now hs => ⟨fun hd => ?_, fun hd hq => ?_⟩, fun hc => ?_⟩
    · rw [ctPoll_after _ (by exact hs) (by exact hd)] at hstart
      exact exec_ctGather hx (ctGather_of_fail hstart) (by simp)
    · rw [ctPoll_before (now := now) _ (by exact hs) (by exact hd)] at hstart
      have hg := (ctGather_of_wait hstart).trans (gatherDrain_stays _ (.inr hq))
      exact exec_ctGather hx hg fun _ => blocked_of_no_answer hq
    · rw [ctPoll_no_clock _ (by exact hc)] at hstart
      have hg := (ctGather_of_wait hstart).trans (gatherDrain_stays _ (.inl rfl))
      exact exec_ctGather hx hg fun _ => blocked_of_not_receives rfl

end Sys2Proof.Settled
end

section
/-! PROOFS. All that an exchange in flight can be met by, and how it goes on from each wait (R18, R126 to R130). -/

namespace Sys2Proof.Machine

/-- The clock alone decides whether a read is answered (R18). -/
theorem hostClock_eq_none_iff {io : Io} : hostClock io = none ↔ clockDraw io.clock = none := by
  rcases hostClock_cases io with ⟨hd, hn⟩ | ⟨now, hs, -⟩
  · simp [hd, hn]
  · cases hd : clockDraw io.clock with
    | none => simp [hostClock, hd]
    | some v => simp [hs]

/-! ### A chunk without the magic -/

/-- Two bytes that stand nowhere next to each other are not found (R128). -/
theorem findPair_eq_none {lo hi : Byte} {chunk : List Byte}
    (h : ∀ i, ¬ (chunk[i]? = some lo ∧ chunk[i + 1]? = some hi)) : findPair lo hi chunk = none := by
  induction chunk with
  | nil => rfl
  | cons b0 rest ih =>
    cases rest with
    | nil => rfl
    | cons b1 rest =>
      have htail := ih fun i => by simpa using h (i + 1)
      have hhead : ¬ (b0 = lo ∧ b1 = hi) := by simpa using h 0
      rw [findPair, if_neg hhead, htail]

/-- The event of a chunk without the magic; an empty one raises none (R128). -/
def magicEvents (chunk : List Byte) : List Output := if chunk = [] then [] else [.event (.protocolMismatch .magic)]

/-- A chunk without the magic is discarded whole, its event raised, and the deadline tested (R127, R128). -/
theorem chunkArrived_noMagic {c : CtCtx} {chunk : List Byte} (h : ∀ i, ¬ MagicAt c.cap chunk i) :
    chunkArrived c chunk = replyNext { c with io := c.io.puts (magicEvents chunk) } := by
  have hnone : findPair (magicLo c.cap) (magicHi c.cap) chunk = none := findPair_eq_none h
  cases chunk with
  | nil => simp [chunkArrived, ctScan, hnone, magicEvents, mismatch, CtCtx.raiseSome]
  | cons b bs => simp [chunkArrived, ctScan, hnone, magicEvents, mismatch, CtCtx.raiseSome, raise_eq_puts]

/-! ### One answer -/

/-- A raw receive in either loop that fails, within the bound or at it, is all the exchange does (R126). -/
theorem attemptAnswer_failed {c : CtCtx} {a : RecvAns} {f : RawFail} (hr : c.x.phase.receives = true)
    (ha : ∀ c : CtCtx, recvAnswer c a = recvFailed { c with io := c.io.emit (.rx c.timeout) } f) :
    (c.x.xrCnt.toNat < c.cfg.xportRetries → attemptAnswer c a = (.wait, { c with
      x := { c.x with xrCnt := c.x.xrCnt + 1 }, io := c.io.puts [.rx c.timeout] })) ∧
    (c.cfg.xportRetries ≤ c.x.xrCnt.toNat → attemptAnswer c a = (.fail f.err, { c with
      io := c.io.puts [.rx c.timeout, .event f.event] })) := by
  have hrep := ha c
  constructor
  · intro h
    rw [recvFailed_repeats f (by exact h)] at hrep
    unfold attemptAnswer
    split <;> simp_all [CtPhase.receives, gathered, gatherAnswer, Io.emit, Io.puts]
  · intro h
    rw [recvFailed_last f (by exact h)] at hrep
    unfold attemptAnswer
    split <;> simp_all [CtPhase.receives, gathered, gatherAnswer, Io.emit, Io.puts, CtCtx.raise, Io.raise]

theorem attemptAnswer_reply {c : CtCtx} (chunk : List Byte) (h : c.x.phase = .reply) :
    attemptAnswer c (.data chunk) = chunkArrived (c.taking chunk) chunk := by
  simp [attemptAnswer, h, recvAnswer_data]

/-- The view after a chunk that is discarded for want of the magic (R128). -/
def CtCtx.discarding (c : CtCtx) (chunk : List Byte) : CtCtx :=
  { c with io := c.io.puts (.rx c.timeout :: magicEvents chunk), x := { c.x with rxBuf := chunk } }

/-- A chunk without the magic is discarded and the deadline tested (R127, R128). -/
theorem attemptAnswer_noMagic {c : CtCtx} {chunk : List Byte} (hp : c.x.phase = .reply)
    (hm : ∀ i, ¬ MagicAt c.cap chunk i) :
    attemptAnswer c (.data chunk) = ctPoll (c.discarding chunk) .pollReply := by
  rw [attemptAnswer_reply chunk hp, chunkArrived_noMagic (by exact hm)]
  simp [replyNext, CtCtx.taking, CtCtx.discarding, CtCtx.timeout]

theorem attemptAnswer_body {c : CtCtx} {size : Half} (d : List Byte) (h : c.x.phase = .body size) :
    attemptAnswer c (.data d) = gathered (gatherNext
      (bodyGrown (c.taking d) (d.take (size.toNat - c.x.bodyLen.toNat))) size) := by
  simp [attemptAnswer, h, gatherAnswer_data]

/-- A continuation chunk that leaves the body short: the deadline is tested, and the exchange waits for the next (R130). -/
theorem attemptAnswer_short {c : CtCtx} {now : Micros} {size : Half} {d : List Byte} (hp : c.x.phase = .body size)
    (hs : ClockSteady c.io now) (hd : now < c.x.deadline) (hl : c.x.bodyLen.toNat + d.length < size.toNat) :
    attemptAnswer c (.data d) = (.wait, { c with
      io := (c.io.reads now 1).puts [.rx c.timeout]
      x := { c.x with
        body := (bodyGrown (c.taking d) d).x.body, bodyLen := BitVec.ofNat 16 (c.x.bodyLen.toNat + d.length), rxBuf := d
        xrCnt := 0, phase := .body size } }) := by
  have htake : d.take (size.toNat - c.x.bodyLen.toNat) = d := List.take_of_length_le (by omega)
  have hshort : (bodyGrown (c.taking d) d).x.bodyLen < size := by
    rw [bodyGrown_bodyLen, BitVec.lt_def]
    exact Nat.lt_of_le_of_lt (Nat.le_of_eq (ofNat_toNat_of_le (Nat.le_of_lt hl))) hl
  rw [attemptAnswer_body d hp, htake, gatherNext_polls hshort, ctPoll_before (now := now) _ (by exact hs) (by exact hd)]
  rfl

/-- An attempt that takes its one answer leaves none. -/
theorem attemptDrain_one {c d : CtCtx} {a : RecvAns} {p : Progress ExecResult} (hr : c.x.phase.receives = true)
    (hf : answerFits c.cap a = true) (h : attemptAnswer c a = (p, d)) : attemptDrain [a] c = (p, d.leave []) := by
  rw [attemptDrain, if_pos (by simp [hr, hf]), h]
  cases p <;> rfl

section Supply

variable {s : State} {x : Exchange} {a : RecvAns} {d : CtCtx}

/-- The view of an exchange that is met by one answer. -/
def State.metCtx (s : State) (x : Exchange) (a : RecvAns) : CtCtx := (s.queued [a]).ctCtx x

theorem attemptResume_met {p : Progress ExecResult} (hq : s.io.recvQ = []) (hr : x.phase.receives = true)
    (hf : answerFits s.cap a = true) (h : attemptAnswer (s.metCtx x a) a = (p, d)) :
    attemptResume ((s.queued [a]).ctCtx x) = (p, d.leave []) := by
  rw [attemptResume_receives hr]
  show attemptDrain (s.io.recvQ ++ [a]) (s.metCtx x a) = _
  rw [hq, List.nil_append]
  exact attemptDrain_one hr hf h

/-- An answer after which the exchange waits on (R18). -/
theorem supply_recv_waits (hx : s.exchange = some x) (hq : s.io.recvQ = []) (hr : x.phase.receives = true)
    (hf : answerFits s.cap a = true) (h : attemptAnswer (s.metCtx x a) a = (.wait, d)) :
    s.supply (.recv [a]) =
      .next { s with exchange := some d.x, io := { d.io with recvQ := [] }, ret := .waiting } := by
  rw [supply_recv, receive_resumes _ hx hr]
  exact resumeExchange_waits (s := s.queued [a]) hx (attemptResume_met hq hr hf h) (blocked_of_no_answer rfl)

/-- An answer that ends the exchange (R123). -/
theorem supply_recv_ends {p : Progress ExecResult} {r : ExecResult} (hx : s.exchange = some x) (hq : s.io.recvQ = [])
    (hr : x.phase.receives = true) (hf : answerFits s.cap a = true)
    (h : attemptAnswer (s.metCtx x a) a = (p, d)) (hp : p.result = some r) (hn : r ≠ .err .deviceNotReady) :
    s.supply (.recv [a]) = .next { s with
      exchange := none, cmdLock := none, ret := .exec r
      io := Io.puts { d.io with recvQ := [] } (s.delays d.x.reqOp r ++ [.result d.x.owner (.exec r)]) } := by
  rw [supply_recv, receive_resumes _ hx hr]
  exact resumeExchange_ends (s := s.queued [a]) hx (attemptResume_met hq hr hf h) hp hn

end Supply

/-- A body completed by a chunk gives the result of its status (R130, R131). -/
theorem gathered_completes {c : CtCtx} {size status : Half} {d data : List Byte} (hl : c.x.bodyLen.toNat < size.toNat)
    (hd : size.toNat ≤ c.x.bodyLen.toNat + d.length) (hm : size.toNat ≤ c.cfg.bodyMax)
    (hb : c.x.body.length = c.x.bodyLen.toNat) (hs : (c.x.body ++ d).take size.toNat = halfBytes status ++ data) :
    gathered (gatherNext (bodyGrown c (d.take (size.toNat - c.x.bodyLen.toNat))) size) =
      (.done (statusResult status data).1, { c with
        x := { c.x with body := halfBytes status ++ data, bodyLen := size }
        io := c.io.raiseSome (statusResult status data).2 }) := by
  have hlen : c.x.bodyLen.toNat + (d.take (size.toNat - c.x.bodyLen.toNat)).length = size.toNat := by
    rw [List.length_take]
    omega
  have hbody : c.x.body ++ d.take (size.toNat - c.x.bodyLen.toNat) = halfBytes status ++ data := by
    rw [← hs, List.take_append, List.take_of_length_le (l := c.x.body) (by omega), hb]
  rw [bodyGrown_fits (by omega), hlen, hbody, BitVec.ofNat_toNat, BitVec.setWidth_eq,
    gatherNext_done (BitVec.le_refl _), gathered, ctStatus_body]
  rfl

/-- The result of a status other than not ready, and what it puts out (R99, R131). -/
theorem statusResult_ready {status : Half} (data : List Byte) (h : status ≠ 0x000D) :
    (statusResult status data).1 = (if status = 0 then .ok data else .err (.deviceRejected (nackName status) status)) ∧
    ∀ io : Io, io.raiseSome (statusResult status data).2 =
      io.puts (if status = 0 then [] else [.event (.deviceRejected (nackName status) status)]) := by
  by_cases h0 : status = 0
  · subst h0
    exact ⟨rfl, fun io => (puts_nil io).symm⟩
  · rw [statusResult_rejected data h0 h, if_neg h0, if_neg h0]
    exact ⟨rfl, fun _ => rfl⟩

/-! ### Going on from a wait for a clock or a send -/

/-- An attempt with no answer at hand waits where it is (R18). -/
theorem received_waits {c : CtCtx} (hq : c.io.recvQ = []) :
    received (.wait, c) = (.wait, c) := by
  rw [received, hq, attemptDrain, CtCtx.leave, ← hq]

end Sys2Proof.Machine

namespace Sys2Proof.Settled

open Machine

/-- Settles O33. -/
theorem exchangeAnswers : Obligations.ExchangeAnswers := by
  intro s x hx hq t waits ends
  refine ⟨fun hr a k e hm => ?failed, fun hp chunk hfit hmagic => ?noMagic, fun size d hp hfit => ?continuation,
    fun now hs => ?resumed⟩
  case failed =>
    obtain ⟨f, rfl, rfl, hfit, hans⟩ := recvFail_of_mem hm
    obtain ⟨hrep, hlast⟩ := attemptAnswer_failed (c := s.metCtx x a) hr hans
    refine ⟨fun h => (supply_recv_waits hx hq hr (hfit _) (hrep h)).trans ?_, fun h =>
      (supply_recv_ends hx hq hr (hfit _) (hlast h) rfl (by cases f <;> simp [RawFail.err])).trans ?_⟩
    · simp [waits, State.metCtx, State.queued, Io.puts, hq, t, State.timeout]
    · simp [ends, State.metCtx, State.queued, Io.puts, hq, t, State.timeout]
  case noMagic =>
    intro outs
    have hr : x.phase.receives = true := by rw [hp]; rfl
    have hans := attemptAnswer_noMagic (c := s.metCtx x (.data chunk)) hp hmagic
    refine ⟨fun now hs => ⟨fun hd => ?_, fun hd => ?_⟩, fun hc => ?_⟩
    · rw [ctPoll_before (now := now) _ (by exact hs) (by exact hd)] at hans
      refine (supply_recv_waits hx hq hr (answerFits_data hfit) hans).trans ?_
      simp [waits, State.metCtx, State.queued, CtCtx.discarding, Io.puts, Io.reads, hq, t, State.timeout, hp, outs,
        magicEvents, CtPhase.receiving]
    · rw [ctPoll_after (now := now) _ (by exact hs) (by exact hd)] at hans
      refine (supply_recv_ends hx hq hr (answerFits_data hfit) hans rfl (by simp)).trans ?_
      simp [ends, State.metCtx, State.queued, CtCtx.discarding, Io.puts, Io.reads, hq, t, State.timeout, outs,
        magicEvents, Io.raise, Io.emit]
    · have hsilent := hostClock_eq_none_iff.mp hc
      rw [ctPoll_no_clock _ (hostClock_eq_none_iff.mpr (by exact hsilent))] at hans
      refine (supply_recv_waits hx hq hr (answerFits_data hfit) hans).trans ?_
      simp [waits, State.metCtx, State.queued, CtCtx.discarding, Io.puts, hq, t, State.timeout, outs, magicEvents]
  case continuation =>
    intro len hl
    have hr : x.phase.receives = true := by rw [hp]; rfl
    refine ⟨fun now hs hd hshort => ?_, fun status data hd hm hb hbytes hstatus => ?_⟩
    · have hans := attemptAnswer_short (c := s.metCtx x (.data d)) hp hs hd hshort
      refine ⟨(bodyGrown ((s.metCtx x (.data d)).taking d) d).x.body, fun h => ?_, fun h => ?_,
        (supply_recv_waits hx hq hr (answerFits_data hfit) hans).trans ?_⟩
      · rw [bodyGrown_fits (by exact h)]
        rfl
      · exact bodyGrown_beyond (by exact h)
      · simp [waits, State.metCtx, State.queued, Io.puts, Io.reads, hq, t, State.timeout, hp, len]
    · have hans := attemptAnswer_body (c := s.metCtx x (.data d)) d hp
      obtain ⟨hres, hevent⟩ := statusResult_ready data hstatus
      have hdone := gathered_completes (c := (s.metCtx x (.data d)).taking d) hl hd hm hb hbytes
      rw [hres, hevent] at hdone
      refine (supply_recv_ends hx hq hr (answerFits_data hfit) (hans.trans hdone) rfl ?_).trans ?_
      · split <;> simp
      · simp [ends, State.metCtx, State.queued, CtCtx.taking, Io.puts, hq, t, State.timeout]
  case resumed =>
    refine ⟨fun hp hd => ?_, fun size hp hd hl => ?_, fun bytes hp hd hk => ?_, fun hp ht hsum hk => ?_⟩
    · have h : attemptResume (s.ctCtx x) = received (replyNext (s.ctCtx x)) := by simp [attemptResume, hp]
      rw [replyNext, ctPoll_before (now := now) _ (by exact hs) (by exact hd), received_waits (by exact hq)] at h
      exact resumeExchange_waits hx h (blocked_of_no_answer hq)
    · have h : attemptResume (s.ctCtx x) = received (gathered (gatherNext (s.ctCtx x) size)) := by
        simp [attemptResume, hp]
      rw [gatherNext_polls (by exact hl), ctPoll_before (now := now) _ (by exact hs) (by exact hd), gathered,
        received_waits (by exact hq)] at h
      exact resumeExchange_waits hx h (blocked_of_no_answer hq)
    · have h : attemptResume (s.ctCtx x) = attemptSent (sendAgain (s.ctCtx x) bytes) := by simp [attemptResume, hp]
      rw [sendAgain, sendLoop_ok bytes _ (by exact hk), attemptSent_polls (now := now) (by exact hs) (by exact hd)
        (by exact hq)] at h
      exact resumeExchange_waits hx h (blocked_of_no_answer hq)
    · have h : attemptResume (s.ctCtx x) = ctAttempt (s.ctCtx x) := by simp [attemptResume, hp]
      rw [ctAttempt_polls (c := s.ctCtx x) hs hsum ht hk hq] at h
      exact resumeExchange_waits hx h (blocked_of_no_answer hq)

end Sys2Proof.Settled
end

section
/-! PROOFS. What every part of a stream's operation keeps: the view's index, configuration and capability record, the stream's
lock and the job in flight; and that its outputs only grow (R3, R14, R20, R75, R271). -/

namespace Sys2Proof.Machine

/-! ### Ports that only grow -/

/-- Ports to which something may have been put out, and whose clock may have been read: nothing put out is taken back, and
neither the clock nor the count of its reads goes back (R14, R271). -/
structure Grows (io io' : Io) : Prop where
  trace : io.trace <+: io'.trace
  last : io.clock.last ≤ io'.clock.last
  reads : io.clock.reads ≤ io'.clock.reads

theorem Grows.refl (io : Io) : Grows io io := ⟨List.prefix_refl _, BitVec.le_refl _, Nat.le_refl _⟩

theorem Grows.trans {a b c : Io} (h : Grows a b) (k : Grows b c) : Grows a c :=
  ⟨h.trace.trans k.trace, BitVec.le_trans h.last k.last, h.reads.trans k.reads⟩

theorem grows_emit (io : Io) (o : Output) : Grows io (io.emit o) :=
  ⟨List.prefix_append _ _, BitVec.le_refl _, Nat.le_refl _⟩

theorem grows_raise (io : Io) (e : Event) : Grows io (io.raise e) := grows_emit io _

theorem grows_raiseSome (io : Io) (e : Option Event) : Grows io (io.raiseSome e) := by
  cases e with
  | none => exact .refl io
  | some e => exact grows_raise io e

/-- A host clock read only moves the clock on (R14). -/
theorem grows_hostClock {io io' : Io} {now : Micros} (h : hostClock io = some (now, io')) : Grows io io' := by
  have hlast := hostClock_ge_last h
  rw [hostClock_io h]
  exact ⟨List.prefix_refl _, hlast, Nat.le_succ _⟩

theorem Grows.emit {io io' : Io} (h : Grows io io') (o : Output) : Grows io (io'.emit o) := h.trans (grows_emit io' o)

/-! ### What a computation that may fault yields -/

/-- Whatever a computation yields, where it does not fault, has a property. -/
def Yields {α : Type} (x : Except Fault α) (P : α → Prop) : Prop := ∀ a, x = .ok a → P a

section Yields

variable {α β : Type} {P Q : α → Prop} {R : β → Prop} {x : Except Fault α}

theorem yields_ok {a : α} (h : P a) : Yields (.ok a) P := by
  rintro _ ⟨⟩
  exact h

theorem yields_error (e : Fault) : Yields (.error e) P := nofun

theorem Yields.bind {f : α → Except Fault β} (hx : Yields x P) (hf : ∀ a, P a → Yields (f a) R) :
    Yields (x >>= f) R := by
  cases x with
  | error e => exact nofun
  | ok a => exact hf a (hx a rfl)

theorem Yields.mono (hx : Yields x P) (h : ∀ a, P a → Q a) : Yields x Q := fun a ha => h a (hx a ha)

/-- A computation of which nothing need be known. -/
theorem yields_trivial (x : Except Fault α) : Yields x fun _ => True := fun _ _ => trivial

end Yields

/-! ### What a part of a stream's operation keeps -/

/-- How a part of an operation leaves its view: the stream, the configuration, the capability record, the stream's lock and its
job are those it found, and the ports have grown. -/
structure Onward (v u : RdCtx) : Prop where
  sid : u.sid = v.sid
  cfg : u.cfg = v.cfg
  cap : u.cap = v.cap
  lock : u.st.lock = v.st.lock
  job : u.st.job = v.st.job
  ports : Grows v.io u.io

theorem Onward.refl (v : RdCtx) : Onward v v := ⟨rfl, rfl, rfl, rfl, rfl, .refl _⟩

theorem Onward.trans {v u w : RdCtx} (h : Onward v u) (k : Onward u w) : Onward v w :=
  ⟨k.sid.trans h.sid, k.cfg.trans h.cfg, k.cap.trans h.cap, k.lock.trans h.lock, k.job.trans h.job, h.ports.trans k.ports⟩

/-- A change of other registers of the record. -/
theorem Onward.record {v u : RdCtx} {st : Stream} (h : Onward v u) (hl : st.lock = u.st.lock := by rfl)
    (hj : st.job = u.st.job := by rfl) : Onward v { u with st := st } :=
  ⟨h.sid, h.cfg, h.cap, hl.trans h.lock, hj.trans h.job, h.ports⟩

theorem Onward.emit {v u : RdCtx} (h : Onward v u) (o : Output) : Onward v (u.emit o) :=
  ⟨h.sid, h.cfg, h.cap, h.lock, h.job, h.ports.emit o⟩

theorem Onward.raise {v u : RdCtx} (h : Onward v u) (e : Event) : Onward v (u.raise e) := h.emit _

theorem Yields.after {v u : RdCtx} {x : Except Fault RdCtx} (h : Onward v u) (hx : Yields x (Onward u)) :
    Yields x (Onward v) := hx.mono fun _ => h.trans

/-- The view an operation of a stream has come to, at its end or at a wait. -/
def Run.ctx {α : Type} : Run α → RdCtx
  | .done _ v => v
  | .wait _ v => v

/-- One part after another keeps what both keep. -/
theorem Run.bind_yields {α β : Type} {v : RdCtx} {r : Run α} {next : α → RdCtx → Except Fault (Run β)}
    (hr : Onward v r.ctx) (hn : ∀ a u, Yields (next a u) fun q => Onward u q.ctx) :
    Yields (r.bind next) fun q => Onward v q.ctx := by
  cases r with
  | done a u => exact (hn a u).mono fun _ => hr.trans
  | wait w u => exact yields_ok hr

/-! ### The output buffer and the codec -/

theorem prOverflow_onward (v : RdCtx) : Onward v (prOverflow v) :=
  ((Onward.refl v).raise _).record

theorem appendOut_onward (v : RdCtx) (bs : List Byte) : Onward v (appendOut v bs) := by
  unfold appendOut
  dsimp only
  split
  · exact prOverflow_onward v
  · exact (Onward.refl v).record

theorem bdElementOut_onward (v : RdCtx) (w n : Nat) (elem : List Byte) :
    Yields (bdElementOut v w n elem) (Onward v) :=
  (yields_trivial _).bind fun _ _ => yields_ok (appendOut_onward v _)

theorem feedElements_onward (w n k : Nat) :
    ∀ (v : RdCtx) (bytes : List Byte), Yields (feedElements w n k v bytes) fun p => Onward v p.1 := by
  induction k with
  | zero => exact fun v bytes => yields_ok (.refl v)
  | succ k ih =>
    intro v bytes
    refine (bdElementOut_onward v w n _).bind fun u hu => ?_
    split
    · exact yields_ok hu
    · exact (ih u _).mono fun _ => hu.trans

theorem feedWhole_onward (v : RdCtx) (w n : Nat) (bytes : List Byte) : Yields (feedWhole v w n bytes) (Onward v) := by
  refine (feedElements_onward w n _ v bytes).bind fun (u, rest) hu => ?_
  cases rest with
  | none => exact yields_ok hu
  | some r => exact yields_ok (hu.record)

theorem bdFeed_onward (v : RdCtx) (w n : Nat) (bytes : List Byte) : Yields (bdFeed v w n bytes) (Onward v) := by
  unfold bdFeed
  dsimp only
  split
  · exact feedWhole_onward v w n bytes
  · split
    · exact yields_ok ((Onward.refl v).record)
    · refine (yields_trivial _).bind fun elem _ => ?_
      refine (Yields.after ((Onward.refl v).record) (bdElementOut_onward _ w n elem)).bind fun u hu => ?_
      split
      · exact yields_ok hu
      · exact Yields.after (hu.record) (feedWhole_onward _ w n _)

theorem bdUnpack_onward (v : RdCtx) (input : List Byte) : Yields (bdUnpack v input) fun p => Onward v p.2 := by
  unfold bdUnpack
  split
  · exact yields_ok (.refl v)
  · split
    · exact yields_error _
    · exact (yields_trivial _).bind fun _ _ => yields_ok (.refl v)

/-! ### Frame actions -/

theorem prPad_onward (v : RdCtx) (k : Nat) : Onward v (prPad v k) := by
  unfold prPad
  split
  · exact .refl v
  · exact appendOut_onward v _

theorem prFrameReset_onward (v : RdCtx) : Onward v (prFrameReset v) := (Onward.refl v).record

theorem prSof_onward (v : RdCtx) (h : Header) : Onward v (prSof v h) := by
  unfold prSof
  dsimp only
  split
  · exact ((prFrameReset_onward v).record).trans (prPad_onward _ _)
  · exact prFrameReset_onward v

theorem prPublish_onward (v : RdCtx) : Yields (prPublish v) (Onward v) :=
  (yields_trivial _).bind fun _ _ => yields_ok (((((Onward.refl v).emit _).emit _).emit _).record)

/-- The view of end-of-frame once its two checks are made (R184). -/
theorem eofChecked_onward (v : RdCtx) :
    Onward v { v with st := eofChecks v.cfg v.st } := (Onward.refl v).record

theorem prEof_onward (v : RdCtx) : Yields (prEof v) (Onward v) := by
  unfold prEof
  have hchecked := (prPad_onward v v.st.trailPad.toNat).trans (eofChecked_onward _)
  have hreset (u : RdCtx) (hu : Onward v u) : Yields (.ok (prFrameReset u)) (Onward v) :=
    yields_ok (hu.trans (prFrameReset_onward u))
  dsimp only
  split
  · exact (Yields.after (hchecked.raise _).record (prPublish_onward _)).bind hreset
  · exact (Yields.after hchecked.record (prPublish_onward _)).bind hreset

theorem prPiece_onward (v : RdCtx) (bytes : List Byte) : Yields (prPiece v bytes) (Onward v) := by
  unfold prPiece
  split
  · exact yields_ok (.refl v)
  · split
    · exact yields_ok (appendOut_onward v bytes)
    · exact bdFeed_onward v 11 _ bytes
    · exact bdFeed_onward v 12 _ bytes
    · exact yields_error _

/-! ### The time of a packet -/

/-- How a time conversion leaves its view: of the stream's record only the synchronizer registers have changed (R211 to
R219). -/
structure Converts (v u : RdCtx) : Prop where
  sid : u.sid = v.sid
  cfg : u.cfg = v.cfg
  cap : u.cap = v.cap
  record : u.st = { v.st with
    syFirst := u.st.syFirst, syLref := u.st.syLref, syTotal := u.st.syTotal, syLastTick := u.st.syLastTick
    syLastRes := u.st.syLastRes }
  ports : Grows v.io u.io

theorem Converts.refl (v : RdCtx) : Converts v v := ⟨rfl, rfl, rfl, rfl, .refl _⟩

theorem Converts.trans {v u w : RdCtx} (h : Converts v u) (k : Converts u w) : Converts v w :=
  ⟨k.sid.trans h.sid, k.cfg.trans h.cfg, k.cap.trans h.cap, by rw [k.record, h.record], h.ports.trans k.ports⟩

theorem Converts.onward {v u : RdCtx} (h : Converts v u) : Onward v u :=
  ⟨h.sid, h.cfg, h.cap, by rw [h.record], by rw [h.record], h.ports⟩

/-- What a conversion comes to has only the synchronizer registers changed. -/
abbrev YieldsConverted {α : Type} (v : RdCtx) (x : Except Fault (Run α)) : Prop := Yields x fun r => Converts v r.ctx

theorem Run.bind_converts {α β : Type} {v : RdCtx} {r : Run α} {next : α → RdCtx → Except Fault (Run β)}
    (hr : Converts v r.ctx) (hn : ∀ a u, YieldsConverted u (next a u)) : YieldsConverted v (r.bind next) := by
  cases r with
  | done a u => exact (hn a u).mono fun _ => hr.trans
  | wait w u => exact yields_ok hr

theorem csReference_converts (op : TimeOp) (v : RdCtx) : Converts v (csReference op v).ctx := by
  unfold csReference
  split
  · exact ⟨rfl, rfl, rfl, rfl, .refl _⟩
  · split
    · exact .refl v
    · exact ⟨rfl, rfl, rfl, rfl, grows_hostClock ‹_›⟩

theorem csEstablish_converts (op : TimeOp) (v : RdCtx) : Converts v (csEstablish op v).ctx := by
  unfold csEstablish
  split
  · exact .refl v
  · exact Converts.trans (by exact ⟨rfl, rfl, rfl, rfl, .refl _⟩) (csReference_converts op _)

theorem csInitAt_converts (v : RdCtx) (tick : Tick) (now : Micros) :
    Yields (csInitAt v tick now) fun p => Converts v p.2 :=
  (yields_trivial _).bind fun _ _ => (yields_trivial _).bind fun _ _ => yields_ok ⟨rfl, rfl, rfl, rfl, .refl _⟩

theorem csInitRead_converts (op : TimeOp) (v : RdCtx) : YieldsConverted v (csInitRead op v) := by
  unfold csInitRead
  split
  · exact yields_ok (.refl v)
  · refine (csInitAt_converts _ op.tick _).bind fun p hp => yields_ok ?_
    exact Converts.trans (by exact ⟨rfl, rfl, rfl, rfl, grows_hostClock ‹_›⟩) hp

theorem csInit_converts (op : TimeOp) (v : RdCtx) : YieldsConverted v (csInit op v) :=
  (csInitRead_converts op _).mono fun _ => Converts.trans (by exact ⟨rfl, rfl, rfl, rfl, .refl _⟩)

theorem csAdvance_converts (v : RdCtx) (tick : Tick) : Yields (csAdvance v tick) fun p => Converts v p.2 :=
  (yields_trivial _).bind fun _ _ => (yields_trivial _).bind fun _ _ => yields_ok ⟨rfl, rfl, rfl, rfl, .refl _⟩

theorem csResync_converts (op : TimeOp) (v : RdCtx) : YieldsConverted v (csResync op v) :=
  (csInit_converts op _).mono fun _ => Converts.trans (by exact ⟨rfl, rfl, rfl, rfl, grows_raise _ _⟩)

theorem csAccept_converts (us : Micros) (v : RdCtx) : YieldsConverted v (csAccept us v) :=
  yields_ok ⟨rfl, rfl, rfl, rfl, .refl _⟩

theorem csConvert_converts (op : TimeOp) (v : RdCtx) : YieldsConverted v (csConvert op v) := by
  unfold csConvert
  split
  · exact (csInit_converts op v).bind fun r hr => Run.bind_converts hr csAccept_converts
  · refine (csAdvance_converts v op.tick).bind fun p hp => ?_
    dsimp only
    split
    · exact (csResync_converts op p.2).bind fun r hr => Run.bind_converts (hp.trans hr) csAccept_converts
    · exact (csAccept_converts p.1 p.2).mono fun _ => hp.trans

theorem csElapsed_converts (op : TimeOp) (v : RdCtx) : YieldsConverted v (csElapsed op v) := by
  unfold csElapsed
  split
  · exact yields_ok (.refl v)
  · exact (yields_trivial _).bind fun _ _ => yields_ok ⟨rfl, rfl, rfl, rfl, grows_hostClock ‹_›⟩

theorem csEstablished_converts (op : TimeOp) (v : RdCtx) : YieldsConverted v (csEstablished op v) := by
  cases op with
  | tohost tick => exact csConvert_converts _ v
  | hostonly => exact csElapsed_converts _ v
  | establish tick => exact yields_ok (.refl v)
  | init tick => exact csInit_converts _ v

/-- A conversion that has to establish the reference first. -/
theorem establishing_converts (op : TimeOp) (v : RdCtx) :
    YieldsConverted v ((csEstablish op v).bind fun _ v => csEstablished op v) :=
  Run.bind_converts (csEstablish_converts op v) fun _ u => csEstablished_converts op u

theorem csBegin_converts (op : TimeOp) (v : RdCtx) : YieldsConverted v (csBegin op v) := by
  cases op with
  | tohost tick =>
    unfold csBegin
    dsimp only
    split
    · exact csConvert_converts _ v
    · split
      · exact yields_ok (.refl v)
      · exact establishing_converts _ v
  | hostonly =>
    unfold csBegin
    dsimp only
    split
    · exact csElapsed_converts _ v
    · exact establishing_converts _ v
  | establish tick => exact establishing_converts _ v
  | init tick => exact csInit_converts _ v

theorem csRead_converts (op : TimeOp) (v : RdCtx) : YieldsConverted v (csRead op v) := by
  cases op with
  | tohost tick => exact (csInitRead_converts _ v).bind fun r hr => Run.bind_converts hr csAccept_converts
  | hostonly => exact csElapsed_converts _ v
  | establish tick => exact yields_ok (.refl v)
  | init tick => exact csInitRead_converts _ v

theorem csResume_converts (w : TimeWait) (v : RdCtx) : YieldsConverted v (csResume w v) := by
  unfold csResume
  split
  · exact establishing_converts w.op v
  · exact Run.bind_converts (csReference_converts w.op v) fun _ u => csEstablished_converts w.op u
  · exact csRead_converts w.op v

/-! ### Packet actions -/

theorem prLosschk_onward (v : RdCtx) (h : Header) : Onward v (prLosschk v h).2 := by
  unfold prLosschk
  dsimp only
  split
  · exact ((Onward.refl v).raise _).record
  · exact (Onward.refl v).record

theorem prTimed_onward (v : RdCtx) (h : Header) (us : Micros) : Onward v (prTimed v h us) :=
  Onward.emit ((Onward.refl v).record) _

theorem prTime_onward (v : RdCtx) (h : Header) : Yields (prTime v h) fun r => Onward v r.ctx :=
  (csBegin_converts _ v).bind fun _ hr =>
    Run.bind_yields hr.onward fun us u => yields_ok (prTimed_onward u h us)

theorem packetStart_onward (v : RdCtx) (h : Header) : Yields (packetStart v h) fun r => Onward v r.ctx := by
  unfold packetStart
  have hchecked := ((Onward.refl v).emit (.diagPacket v.sid h.type h.seq h.size h.ts)).trans (prLosschk_onward _ h)
  have hflags {u : RdCtx} (hu : Onward v u) (sof now : Bool) : Onward v { u with st := lossFlags u.st sof now } :=
    hu.record
  dsimp only
  split
  · split
    · exact yields_ok (hflags (hchecked.trans (prSof_onward _ h)) _ _)
    · exact (prTime_onward _ h).mono fun _ => (hflags (hchecked.trans (prSof_onward _ h)) _ _).trans
  · split
    · exact yields_ok (hflags hchecked _ _)
    · exact (prTime_onward _ h).mono fun _ => (hflags hchecked _ _).trans

theorem prPktstart_onward (v : RdCtx) : Yields (prPktstart v) fun r => Onward v r.ctx :=
  (yields_trivial _).bind fun h _ => packetStart_onward v h

theorem packetEnd_onward (v : RdCtx) (h : Header) : Yields (packetEnd v h) (Onward v) := by
  unfold packetEnd
  dsimp only
  split
  · exact (prEof_onward v).bind fun u hu => yields_ok hu.record
  · exact yields_ok (Onward.refl v).record

theorem prPktend_onward (v : RdCtx) : Yields (prPktend v) (Onward v) :=
  (yields_trivial _).bind fun h _ => packetEnd_onward v h

/-! ### The parser -/

theorem prDiscard_onward (v : RdCtx) (rest : List Byte) : Onward v (prDiscard v rest).2 := .refl v

theorem prIgnore_onward (v : RdCtx) (rest : List Byte) : Onward v (prIgnore v rest).2 := (Onward.refl v).record

theorem prSeek_onward (v : RdCtx) (b : Byte) : Onward v (prSeek v b).2 := by
  unfold prSeek
  split <;> exact (Onward.refl v).record

theorem headerTail_onward (v : RdCtx) (h : Header) : Yields (headerTail v h) (Onward v) := by
  unfold headerTail
  split
  · exact packetEnd_onward v h
  · exact yields_ok ((Onward.refl v).record)

theorem headerComplete_onward (v : RdCtx) : Yields (headerComplete v) fun r => Onward v r.ctx :=
  (yields_trivial _).bind fun h _ => (packetStart_onward v h).bind fun _ hr =>
    Run.bind_yields hr fun _ u => (headerTail_onward u h).bind fun _ hw => yields_ok hw

theorem prHdr_onward (v : RdCtx) (rest : List Byte) : Yields (prHdr v rest) fun p => Onward v p.2.ctx := by
  unfold prHdr
  dsimp only
  split
  · exact (headerComplete_onward _).bind fun r hr => yields_ok (Onward.trans ((Onward.refl v).record) hr)
  · exact yields_ok ((Onward.refl v).record)

theorem prData_onward (v : RdCtx) (rest : List Byte) : Yields (prData v rest) fun p => Onward v p.2 := by
  unfold prData
  refine (prPiece_onward v _).bind fun u hu => ?_
  dsimp only
  split
  · exact (prPktend_onward _).bind fun w hw => yields_ok (Onward.trans (hu.record) hw)
  · exact yields_ok (hu.record)

theorem chunkRound_onward (v : RdCtx) (rest : List Byte) : Yields (chunkRound v rest) fun p => Onward v p.2.ctx := by
  unfold chunkRound
  split
  · exact yields_ok (prDiscard_onward v rest)
  · exact yields_ok (prIgnore_onward v rest)
  · split
    · exact yields_ok (.refl v)
    · exact yields_ok (prSeek_onward v _)
  · exact prHdr_onward v rest
  · exact (prData_onward v rest).bind fun p hp => yields_ok hp

/-- All a chunk comes to: its end, or the job of its packet's time conversion, which it waits with (R170). -/
def ChunkEnds (v u : RdCtx) : Prop := Onward v u ∨ ∃ w t user, Onward v w ∧ u = w.park t user

theorem chunkLoop_ends (fuel : Nat) : ∀ (v : RdCtx) (bytes : List Byte), Yields (chunkLoop fuel v bytes) (ChunkEnds v) := by
  induction fuel with
  | zero =>
    intro v bytes
    cases bytes with
    | nil => exact yields_ok (Or.inl (.refl v))
    | cons b bs => exact yields_error _
  | succ fuel ih =>
    intro v bytes
    cases bytes with
    | nil => exact yields_ok (Or.inl (.refl v))
    | cons b bs =>
      refine (chunkRound_onward v (b :: bs)).bind fun (k, r) hr => ?_
      dsimp only
      split
      · exact yields_error _
      · cases r with
        | done a u =>
          refine (ih u _).mono fun x hx => ?_
          obtain hx | ⟨w, t, user, hw, rfl⟩ := hx
          · exact Or.inl (Onward.trans hr hx)
          · exact Or.inr ⟨w, t, user, Onward.trans hr hw, rfl⟩
        | wait w u => exact yields_ok (Or.inr ⟨u, w, _, hr, rfl⟩)

theorem ChunkEnds.sid {v u : RdCtx} (h : ChunkEnds v u) : u.sid = v.sid := by
  obtain h | ⟨w, t, user, h, rfl⟩ := h <;> exact h.sid

theorem ChunkEnds.ports {v u : RdCtx} (h : ChunkEnds v u) : Grows v.io u.io := by
  obtain h | ⟨w, t, user, h, rfl⟩ := h <;> exact h.ports

end Sys2Proof.Machine
end

section
/-! PROOFS. Every operation's outputs are appended and never taken back, and no host clock answer is below one before (R14,
R271). -/

namespace Sys2Proof.Machine

/-! ### A command exchange -/

theorem grows_puts (io : Io) (os : List Output) : Grows io (io.puts os) :=
  ⟨List.prefix_append _ _, BitVec.le_refl _, Nat.le_refl _⟩

theorem Grows.puts {io io' : Io} (h : Grows io io') (os : List Output) : Grows io (io'.puts os) :=
  h.trans (grows_puts io' os)

theorem Grows.raiseSome {io io' : Io} (h : Grows io io') (e : Option Event) : Grows io (io'.raiseSome e) :=
  h.trans (grows_raiseSome io' e)

/-- What is left for later receives is no output. -/
theorem Grows.leave {io : Io} {c : CtCtx} (h : Grows io c.io) (q : List RecvAns) : Grows io (c.leave q).io :=
  ⟨h.trace, h.last, h.reads⟩

theorem grows_rawSend {io io' : Io} {bytes : List Byte} {t : Word} {a : SendAns}
    (h : rawSend io bytes t = some (a, io')) : Grows io io' := by
  rcases rawSend_cases io bytes t with ⟨-, hn⟩ | ⟨a', -, hs⟩
  · simp [hn] at h
  · rw [hs] at h
    cases h
    exact ⟨List.prefix_append _ _, BitVec.le_refl _, Nat.le_refl _⟩

/-! Each part of an exchange in turn: ports that have grown when it begins have grown when it stops. -/

section Exchange

variable {io : Io} {c : CtCtx}

theorem sendLoop_grows (bytes : List Byte) (left : Nat) :
    ∀ {c : CtCtx}, Grows io c.io → Grows io (sendLoop bytes left c).2.io := by
  induction left with
  | zero =>
    intro c h
    unfold sendLoop
    split
    · exact h
    · dsimp only
      split
      · exact h.trans (grows_rawSend ‹_›)
      · exact (h.trans (grows_rawSend ‹_›)).emit _
  | succ left ih =>
    intro c h
    unfold sendLoop
    split
    · exact h
    · dsimp only
      split
      · exact h.trans (grows_rawSend ‹_›)
      · exact ih (h.trans (grows_rawSend ‹_›))

theorem ctSendr_grows (bytes : List Byte) (h : Grows io c.io) : Grows io (ctSendr c bytes).2.io :=
  sendLoop_grows bytes _ h

theorem recvFailed_grows (f : RawFail) (h : Grows io c.io) : Grows io (recvFailed c f).2.io := by
  unfold recvFailed
  split
  · exact h.emit _
  · exact h

theorem recvAnswer_grows (a : RecvAns) (h : Grows io c.io) : Grows io (recvAnswer c a).2.io := by
  have hrx := h.emit (.rx c.timeout)
  cases a with
  | data bytes => exact hrx
  | timeout => exact recvFailed_grows .timeout hrx
  | stall => exact recvFailed_grows .stall hrx

theorem recvDrain_grows (q : List RecvAns) : ∀ {c : CtCtx}, Grows io c.io → Grows io (recvDrain q c).2.io := by
  induction q with
  | nil => exact fun h => h.leave []
  | cons a q ih =>
    intro c h
    have ha := recvAnswer_grows a h
    rw [recvDrain]
    split
    · split <;> rename_i heq <;> rw [heq] at ha
      · exact ih ha
      · exact ha.leave q
      · exact ha.leave q
    · exact h.leave _

theorem ctRecvr_grows (h : Grows io c.io) : Grows io (ctRecvr c).2.io := recvDrain_grows c.io.recvQ h

theorem ctPoll_grows {α : Type} (p : CtPhase) (h : Grows io c.io) : Grows io (ctPoll (α := α) c p).2.io := by
  obtain ⟨-, hp⟩ | ⟨now, io', hc, ⟨-, hp⟩ | ⟨-, hp⟩⟩ := ctPoll_cases (α := α) c p <;> rw [hp]
  · exact h
  · exact (h.trans (grows_hostClock hc)).emit _
  · exact h.trans (grows_hostClock hc)

theorem gatherNext_grows (size : Half) (h : Grows io c.io) : Grows io (gatherNext c size).2.io := by
  unfold gatherNext
  split
  · exact h
  · exact ctPoll_grows _ h

theorem gatherStart_grows (chunk : List Byte) (hdr : ReplyHdr) (h : Grows io c.io) :
    Grows io (gatherStart c chunk hdr).2.io := gatherNext_grows hdr.size h

theorem gatherAnswer_grows (size : Half) (a : RecvAns) (h : Grows io c.io) :
    Grows io (gatherAnswer c size a).2.io := by
  have ha := recvAnswer_grows a h
  unfold gatherAnswer
  split <;> rename_i heq <;> rw [heq] at ha
  · exact ha
  · exact ha
  · exact gatherNext_grows size ha

theorem gatherDrain_grows (size : Half) (q : List RecvAns) :
    ∀ {c : CtCtx}, Grows io c.io → Grows io (gatherDrain size q c).2.io := by
  induction q with
  | nil => exact fun h => h.leave []
  | cons a q ih =>
    intro c h
    have ha := gatherAnswer_grows size a h
    rw [gatherDrain]
    split
    · split <;> rename_i heq <;> rw [heq] at ha
      · exact ih ha
      · exact ha.leave q
      · exact ha.leave q
    · exact h.leave _

theorem ctGather_grows (chunk : List Byte) (hdr : ReplyHdr) (h : Grows io c.io) :
    Grows io (ctGather c chunk hdr).2.io := by
  have hs := gatherStart_grows chunk hdr h
  unfold ctGather
  split <;> rename_i heq <;> rw [heq] at hs
  · exact gatherDrain_grows hdr.size _ hs
  · exact hs
  · exact hs

theorem gathered_grows {r : Progress (List Byte) × CtCtx} (h : Grows io r.2.io) : Grows io (gathered r).2.io := by
  obtain ⟨p, c⟩ := r
  cases p with
  | wait => exact h
  | fail k => exact h
  | done body => exact h.raiseSome _

theorem chunkArrived_grows (chunk : List Byte) (h : Grows io c.io) : Grows io (chunkArrived c chunk).2.io := by
  have hscan := h.raiseSome (mismatch (ctScan c.cap chunk).2)
  unfold chunkArrived
  dsimp only
  split
  · exact ctPoll_grows .pollReply hscan
  · exact ctPoll_grows .pollReply hscan
  · rename_i hdr _
    have hmatch := hscan.raiseSome (mismatch (ctMatch c.x hdr).2)
    split
    · exact gathered_grows (gatherStart_grows chunk hdr hmatch)
    · exact ctPoll_grows .pollReply hmatch

theorem attemptAnswer_grows (a : RecvAns) (h : Grows io c.io) : Grows io (attemptAnswer c a).2.io := by
  have ha := recvAnswer_grows a h
  unfold attemptAnswer
  split
  · exact gathered_grows (gatherAnswer_grows _ a h)
  · split <;> rename_i heq <;> rw [heq] at ha
    · exact ha
    · exact ha
    · exact chunkArrived_grows _ ha
  all_goals exact h

theorem attemptDrain_grows (q : List RecvAns) : ∀ {c : CtCtx}, Grows io c.io → Grows io (attemptDrain q c).2.io := by
  induction q with
  | nil => exact fun h => h.leave []
  | cons a q ih =>
    intro c h
    have ha := attemptAnswer_grows a h
    rw [attemptDrain]
    split
    · split <;> rename_i heq <;> rw [heq] at ha
      · exact ih ha
      · exact ha.leave q
      · exact ha.leave q
    · exact h.leave _

theorem received_grows {r : Progress ExecResult × CtCtx} (h : Grows io r.2.io) : Grows io (received r).2.io := by
  obtain ⟨p, c⟩ := r
  cases p with
  | wait => exact attemptDrain_grows _ h
  | done r => exact h
  | fail k => exact h

theorem attemptSent_grows {r : Progress Unit × CtCtx} (h : Grows io r.2.io) : Grows io (attemptSent r).2.io := by
  obtain ⟨p, c⟩ := r
  cases p with
  | wait => exact h
  | fail k => exact h
  | done u => exact received_grows (ctPoll_grows .pollReply h)

theorem ctAttempt_grows (h : Grows io c.io) : Grows io (ctAttempt c).2.io := by
  unfold ctAttempt
  split
  · exact h
  · exact attemptSent_grows (ctSendr_grows _ (h.trans (grows_hostClock ‹_›)))

theorem attemptResume_grows (h : Grows io c.io) : Grows io (attemptResume c).2.io := by
  unfold attemptResume
  split
  · exact ctAttempt_grows h
  · exact attemptSent_grows (sendLoop_grows _ _ h)
  · exact received_grows (ctPoll_grows .pollReply h)
  · exact received_grows h
  · exact received_grows (gathered_grows (gatherNext_grows _ h))
  · exact received_grows h

theorem execLoop_grows (left : Nat) :
    ∀ {r : Progress ExecResult × CtCtx}, Grows io r.2.io → Grows io (execLoop left r).2.io := by
  induction left with
  | zero => exact fun h => h
  | succ left ih =>
    intro (p, c) h
    rw [execLoop]
    split
    · exact ih (ctAttempt_grows (h.emit (.delay c.cfg.notReadyBackoffUs)))
    · exact h

end Exchange

/-! ### Outcomes that only add -/

/-- The next state of an outcome, where it has one, has ports that have grown. -/
def GrowsTo (io : Io) (o : Outcome) : Prop := ∀ t, o = .next t → Grows io t.io

theorem growsTo_next {io : Io} {t : State} (h : Grows io t.io) : GrowsTo io (.next t) := by
  rintro _ ⟨⟩
  exact h

theorem growsTo_fault (io : Io) (e : Fault) : GrowsTo io (.fault e) := by
  rintro _ ⟨⟩

theorem growsTo_refused (io : Io) (r : Refusal) : GrowsTo io (.refused r) := by
  rintro _ ⟨⟩

theorem settle_growsTo {io : Io} (s : State) {out : Option ExecResult × CtCtx} (h : Grows io out.2.io) :
    GrowsTo io (s.settle out) := by
  obtain ⟨r, c⟩ := out
  cases r with
  | none =>
    rw [State.settle]
    split
    · exact growsTo_refused _ _
    · exact growsTo_next h
  | some r =>
    rw [settle_ends]
    exact growsTo_next (h.puts _)

theorem beginExchange_growsTo (s : State) (a : Agent) (op : Half) (payload : List Byte) :
    GrowsTo s.io (s.beginExchange a op payload) := by
  unfold State.beginExchange
  split
  · exact growsTo_refused _ _
  · exact settle_growsTo _ (execLoop_grows _ (ctAttempt_grows (.refl s.io)))

theorem resumeExchange_growsTo (s : State) : GrowsTo s.io s.resumeExchange := by
  unfold State.resumeExchange
  split
  · exact growsTo_next (.refl _)
  · exact settle_growsTo s (execLoop_grows _ (attemptResume_grows (.refl s.io)))

/-- What is queued for raw receives is no output. -/
theorem queued_grows (s : State) (vs : List RecvAns) : Grows s.io (s.queued vs).io :=
  ⟨List.prefix_refl _, BitVec.le_refl _, Nat.le_refl _⟩

theorem GrowsTo.after {io io' : Io} {o : Outcome} (h : Grows io io') (ho : GrowsTo io' o) : GrowsTo io o :=
  fun t ht => h.trans (ho t ht)

theorem receive_growsTo (s : State) (vs : List RecvAns) : GrowsTo s.io (s.receive vs) := by
  unfold State.receive
  dsimp only
  split
  · exact .after (queued_grows s vs) (resumeExchange_growsTo (s.queued vs))
  · exact growsTo_next (queued_grows s vs)

/-- An internal operation of an exchange adds what its view has added. -/
theorem onExchange_growsTo (s : State) {f : CtCtx → Ret × CtCtx} (h : ∀ c, Grows c.io (f c).2.io) :
    GrowsTo s.io (s.onExchange f) := by
  unfold State.onExchange
  split
  · exact growsTo_refused _ _
  · dsimp only
    split
    · exact growsTo_refused _ _
    · exact growsTo_next (h (s.ctCtx _))

/-- An operation of a stream adds what its view has added. -/
theorem onStream_growsTo {s : State} {sid : Nat} {f : RdCtx → Except Fault (Ret × RdCtx)}
    (h : ∀ v, Yields (f v) fun p => Grows v.io p.2.io) : GrowsTo s.io (s.onStream sid f) := by
  obtain ⟨-, ho⟩ | ⟨st, -, ⟨e, -, ho⟩ | ⟨r, v, hf, ho⟩⟩ := onStream_cases s sid f <;> rw [ho]
  · exact growsTo_refused _ _
  · exact growsTo_fault _ _
  · exact growsTo_next (h _ _ hf)

/-- An operation of a reader agent that is held adds nothing. -/
theorem onReader_growsTo {s : State} (i : Instr) {sid : Nat} (waits : Stream → Bool)
    {f : RdCtx → Except Fault (Ret × RdCtx)} (h : ∀ v, Yields (f v) fun p => Grows v.io p.2.io) :
    GrowsTo s.io (s.onReader i sid waits f) := by
  unfold State.onReader
  split
  · exact growsTo_refused _ _
  · split
    · exact growsTo_next (.refl _)
    · exact onStream_growsTo h

/-- A host operation puts its result out after what its view has added. -/
theorem onHost_growsTo {s : State} (i : Instr) (allowed : Bool) (a : Agent) {sid : Nat}
    {f : RdCtx → Except Fault (Ret × RdCtx)} (h : ∀ v, Yields (f v) fun p => Grows v.io p.2.io) :
    GrowsTo s.io (s.onHost i allowed a sid f) := by
  obtain ⟨r, ho⟩ | ho | ⟨st, -, -, ⟨e, -, ho⟩ | ⟨r, v, hf, ho⟩⟩ := onHost_cases s i allowed a sid f <;> rw [ho]
  · exact growsTo_refused _ _
  · exact growsTo_next (.refl _)
  · exact growsTo_fault _ _
  · exact growsTo_next ((h _ _ hf).emit _)

/-! ### The operations of a stream -/

/-- A part of an operation that ends in a value. -/
theorem ports_of_onward {v : RdCtx} {x : Except Fault RdCtx} (r : Ret) (h : Yields x (Onward v)) :
    Yields (x >>= fun u => .ok (r, u)) fun p => Grows v.io p.2.io :=
  h.bind fun _ hu => yields_ok hu.ports

theorem csSettle_grows {io : Io} (op : TimeOp) (a : Option Agent) {r : Run Micros} (h : Grows io r.ctx.io) :
    Grows io (csSettle op a r).2.io := by
  cases r with
  | wait w v => exact h
  | done us v =>
    cases a with
    | none => exact h
    | some a => exact h.emit _

theorem onClock_growsTo {s : State} (i : Instr) (sid : Nat) (op : TimeOp) (a : Option Agent)
    {f : RdCtx → Except Fault (Run Micros)} (h : ∀ v, YieldsConverted v (f v)) :
    GrowsTo s.io (s.onClock i sid op a f) :=
  onReader_growsTo i _ fun v => (h v).bind fun _ hr => yields_ok (csSettle_grows op a hr.ports)

theorem parserSettle_grows {io : Io} (u : PacketUser) (ret : Ret) {r : Run Unit} (h : Grows io r.ctx.io) :
    Grows io (parserSettle u ret r).2.io := by
  cases r <;> exact h

theorem prChunk_ports (v : RdCtx) (bytes : List Byte) : Yields (prChunk v bytes) fun p => Grows v.io p.2.io := by
  refine (chunkLoop_ends bytes.length _ bytes).bind fun u hu => yields_ok ?_
  unfold chunkEnd
  split <;> exact hu.ports

theorem chunkAt_growsTo (s : State) (sid : Nat) (bytes : List Byte) : GrowsTo s.io (chunkAt sid bytes s) :=
  onReader_growsTo _ _ fun v => prChunk_ports v bytes

theorem headerAt_growsTo (s : State) (sid : Nat) (type : Stream → Half) (seq size : Half) (ts : Tick) :
    GrowsTo s.io (headerAt sid type seq size ts s) := by
  unfold headerAt
  split
  · exact growsTo_refused _ _
  · exact chunkAt_growsTo s sid _

theorem fromPos_growsTo {s : State} (sid : Nat) (bytes : List Byte) (pos : Nat)
    {f : RdCtx → List Byte → Except Fault (Nat × RdCtx)} (h : ∀ v rest, Yields (f v rest) fun p => Onward v p.2) :
    GrowsTo s.io (fromPos sid bytes pos s f) := by
  unfold fromPos
  split
  · exact growsTo_refused _ _
  · exact onStream_growsTo fun v => (h v _).bind fun _ hp => yields_ok hp.ports

theorem prConfigure_grows (v : RdCtx) (c : StreamConfig) : Grows v.io (prConfigure v c).2.io := by
  unfold prConfigure
  split <;> exact .refl _

theorem prArm_grows (capValid : Bool) (v : RdCtx) : Grows v.io (prArm capValid v).2.io := by
  unfold prArm
  split
  · exact grows_emit _ _
  · exact .refl _

theorem execPrConfigure_growsTo (a : Agent) (sid : Nat) (c : StreamConfig) (s : State) :
    GrowsTo s.io (execPrConfigure a sid c s) := by
  unfold execPrConfigure
  split
  · exact growsTo_refused _ _
  · exact onHost_growsTo _ _ _ fun v => yields_ok (prConfigure_grows v c)

theorem execCsTohost_growsTo (a : Agent) (sid : Nat) (tick : Tick) (s : State) :
    GrowsTo s.io (execCsTohost a sid tick s) := by
  unfold execCsTohost
  split
  · exact growsTo_refused _ _
  · exact onClock_growsTo _ _ _ _ (csBegin_converts _)

theorem execCsHostonly_growsTo (a : Agent) (sid : Nat) (s : State) : GrowsTo s.io (execCsHostonly a sid s) := by
  unfold execCsHostonly
  split
  · exact growsTo_refused _ _
  · exact onClock_growsTo _ _ _ _ (csBegin_converts _)

theorem execPrHdr_growsTo (sid : Nat) (bytes : List Byte) (pos : Nat) (s : State) :
    GrowsTo s.io (execPrHdr sid bytes pos s) := by
  unfold execPrHdr
  split
  · exact growsTo_refused _ _
  · exact onReader_growsTo _ _ fun v => (prHdr_onward v _).bind fun _ hp => yields_ok (parserSettle_grows _ _ hp.ports)

theorem execPrSof_growsTo (sid : Nat) (s : State) : GrowsTo s.io (execPrSof sid s) := by
  refine onStream_growsTo fun v => ?_
  split
  · exact (yields_trivial _).bind fun h _ => yields_ok (prSof_onward v h).ports
  · exact yields_ok (prFrameReset_onward v).ports

theorem execBdFeed_growsTo (sid : Nat) (bytes : List Byte) (s : State) : GrowsTo s.io (execBdFeed sid bytes s) := by
  unfold execBdFeed
  split
  · exact growsTo_refused _ _
  · split
    · exact growsTo_refused _ _
    · exact onStream_growsTo fun v => ports_of_onward _ (bdFeed_onward v _ _ bytes)

theorem execBdElement_growsTo (sid : Nat) (elem : List Byte) (mode : ElemMode) (s : State) :
    GrowsTo s.io (execBdElement sid elem mode s) := by
  unfold execBdElement
  split
  · exact growsTo_refused _ _
  · split
    · exact growsTo_refused _ _
    · split
      · exact growsTo_refused _ _
      · cases mode with
        | list => exact onStream_growsTo fun v => (yields_trivial _).bind fun _ _ => yields_ok (.refl _)
        | out => exact onStream_growsTo fun v => ports_of_onward _ (bdElementOut_onward v _ _ elem)

theorem execPrArm_growsTo (a : Agent) (sid : Nat) (s : State) :
    GrowsTo s.io (execPrArm a sid s) := by
  unfold execPrArm
  exact onHost_growsTo _ _ _ fun v => yields_ok (prArm_grows _ v)

theorem execPrStop_growsTo (a : Agent) (sid : Nat) (s : State) :
    GrowsTo s.io (execPrStop a sid s) := by
  unfold execPrStop
  exact onHost_growsTo _ _ _ fun v => yields_ok (.refl v.io)

theorem execBdCalibrate_growsTo (a : Agent) (sid : Nat) (cal : CalRecord) (mn mx : Half) (s : State) :
    GrowsTo s.io (execBdCalibrate a sid cal mn mx s) := by
  unfold execBdCalibrate
  exact onHost_growsTo _ _ _ fun v => yields_ok (.refl v.io)

theorem execBdReadtable_growsTo (a : Agent) (sid : Nat) (which : TableSel) (idx : Nat) (s : State) :
    GrowsTo s.io (execBdReadtable a sid which idx s) := by
  unfold execBdReadtable
  exact onHost_growsTo _ _ _ fun v => (yields_trivial _).bind fun _ _ => yields_ok (.refl v.io)

theorem execBdUnpack_growsTo (a : Agent) (sid : Nat) (input : List Byte) (s : State) :
    GrowsTo s.io (execBdUnpack a sid input s) := by
  unfold execBdUnpack
  exact onHost_growsTo _ _ _ fun v => (bdUnpack_onward v input).mono fun _ hp => hp.ports

theorem execPrDiscard_growsTo (sid : Nat) (bytes : List Byte) (pos : Nat) (s : State) :
    GrowsTo s.io (execPrDiscard sid bytes pos s) := by
  unfold execPrDiscard
  exact fromPos_growsTo sid bytes pos fun v rest => yields_ok (prDiscard_onward v rest)

theorem execPrIgnore_growsTo (sid : Nat) (bytes : List Byte) (pos : Nat) (s : State) :
    GrowsTo s.io (execPrIgnore sid bytes pos s) := by
  unfold execPrIgnore
  exact fromPos_growsTo sid bytes pos fun v rest => yields_ok (prIgnore_onward v rest)

theorem execPrSeek_growsTo (sid : Nat) (bytes : List Byte) (pos : Nat) (s : State) :
    GrowsTo s.io (execPrSeek sid bytes pos s) := by
  unfold execPrSeek
  exact fromPos_growsTo sid bytes pos fun v rest => yields_ok (prSeek_onward v _)

theorem execPrData_growsTo (sid : Nat) (bytes : List Byte) (pos : Nat) (s : State) :
    GrowsTo s.io (execPrData sid bytes pos s) := by
  unfold execPrData
  exact fromPos_growsTo sid bytes pos prData_onward

theorem execPrPktend_growsTo (sid : Nat) (s : State) :
    GrowsTo s.io (execPrPktend sid s) := by
  unfold execPrPktend
  exact onStream_growsTo fun v => ports_of_onward _ (prPktend_onward v)

theorem execPrPktstart_growsTo (sid : Nat) (s : State) :
    GrowsTo s.io (execPrPktstart sid s) := by
  unfold execPrPktstart
  exact onReader_growsTo _ _ fun v => (prPktstart_onward v).bind fun _ hr =>
    yields_ok (parserSettle_grows _ _ hr.ports)

theorem execPrLosschk_growsTo (sid : Nat) (s : State) :
    GrowsTo s.io (execPrLosschk sid s) := by
  unfold execPrLosschk
  exact onStream_growsTo fun v => (yields_trivial _).bind fun h _ => yields_ok (prLosschk_onward v h).ports

theorem execPrFramereset_growsTo (sid : Nat) (s : State) :
    GrowsTo s.io (execPrFramereset sid s) := by
  unfold execPrFramereset
  exact onStream_growsTo fun v => yields_ok (prFrameReset_onward v).ports

theorem execPrTime_growsTo (sid : Nat) (s : State) :
    GrowsTo s.io (execPrTime sid s) := by
  unfold execPrTime
  exact onReader_growsTo _ _ fun v => (yields_trivial _).bind fun h _ =>
    (prTime_onward v h).bind fun _ hr => yields_ok (parserSettle_grows _ _ hr.ports)

theorem execPrPiece_growsTo (sid : Nat) (bytes : List Byte) (off : Half) (s : State) :
    GrowsTo s.io (execPrPiece sid bytes off s) := by
  unfold execPrPiece
  exact onStream_growsTo fun v => ports_of_onward _ (prPiece_onward v bytes)

theorem execPrEof_growsTo (sid : Nat) (s : State) :
    GrowsTo s.io (execPrEof sid s) := by
  unfold execPrEof
  exact onStream_growsTo fun v => ports_of_onward _ (prEof_onward v)

theorem execPrPad_growsTo (sid : Nat) (k : Half) (s : State) :
    GrowsTo s.io (execPrPad sid k s) := by
  unfold execPrPad
  exact onStream_growsTo fun v => yields_ok (prPad_onward v _).ports

theorem execPrOverflow_growsTo (sid : Nat) (s : State) :
    GrowsTo s.io (execPrOverflow sid s) := by
  unfold execPrOverflow
  exact onStream_growsTo fun v => yields_ok (prOverflow_onward v).ports

theorem execPrPublish_growsTo (sid : Nat) (s : State) :
    GrowsTo s.io (execPrPublish sid s) := by
  unfold execPrPublish
  exact onStream_growsTo fun v => ports_of_onward _ (prPublish_onward v)

theorem execCsEstablish_growsTo (t : StreamTick) (s : State) :
    GrowsTo s.io (execCsEstablish t s) := by
  unfold execCsEstablish
  exact onClock_growsTo _ _ _ _ (csBegin_converts _)

theorem execCsInit_growsTo (sid : Nat) (tick : Tick) (s : State) :
    GrowsTo s.io (execCsInit sid tick s) := by
  unfold execCsInit
  exact onClock_growsTo _ _ _ _ (csBegin_converts _)

theorem execCsAdvance_growsTo (sid : Nat) (tick : Tick) (s : State) :
    GrowsTo s.io (execCsAdvance sid tick s) := by
  unfold execCsAdvance
  exact onStream_growsTo fun v => (csAdvance_converts v _).bind fun _ hp => yields_ok hp.ports

theorem execCsResync_growsTo (sid : Nat) (tick : Tick) (s : State) :
    GrowsTo s.io (execCsResync sid tick s) := by
  unfold execCsResync
  exact onClock_growsTo _ _ _ _ (csResync_converts _)

theorem execBdMap_growsTo (sid : Nat) (code : Half) (s : State) :
    GrowsTo s.io (execBdMap sid code s) := by
  unfold execBdMap
  exact onStream_growsTo fun v => (yields_trivial _).bind fun _ _ => yields_ok (.refl v.io)

/-! ### The operations of the command transport -/

theorem ctConnect_io (s : State) (v : Version) (table : List CapRow) : (ctConnect s v table).2.io = s.io := by
  unfold ctConnect
  split <;> rfl

theorem ctDisconnect_io (s : State) : (ctDisconnect s).2.io = s.io := by
  unfold ctDisconnect
  split <;> rfl

theorem execCtConnect_growsTo (a : Agent) (v : Version) (table : List CapRow) (s : State) :
    GrowsTo s.io (execCtConnect a v table s) := by
  unfold execCtConnect
  split
  · exact growsTo_refused _ _
  · exact growsTo_next (t := (ctConnect s v table).2.reply a (ctConnect s v table).1)
      (ctConnect_io s v table ▸ grows_emit _ _)

theorem execCtDisconnect_growsTo (a : Agent) (s : State) : GrowsTo s.io (execCtDisconnect a s) := by
  unfold execCtDisconnect
  split
  · exact growsTo_refused _ _
  · exact growsTo_next (t := (ctDisconnect s).2.reply a (ctDisconnect s).1) (ctDisconnect_io s ▸ grows_emit _ _)

theorem execCtExec_growsTo (a : Agent) (op : Half) (payload : List Byte) (s : State) :
    GrowsTo s.io (execCtExec a op payload s) := by
  unfold execCtExec
  split
  · exact growsTo_refused _ _
  split
  · exact growsTo_next ((grows_raise _ _).emit _)
  split
  · exact growsTo_refused _ _
  split
  · exact growsTo_next (.refl _)
  · exact beginExchange_growsTo s a op payload

theorem execCtFrame_growsTo (op id : Half) (payload : List Byte) (s : State) :
    GrowsTo s.io (execCtFrame op id payload s) := by
  unfold execCtFrame
  split
  · exact growsTo_refused _ _
  · exact growsTo_next (.refl _)

theorem execCtSendr_growsTo (frame : List Byte) (s : State) : GrowsTo s.io (execCtSendr frame s) := by
  unfold execCtSendr
  split
  · exact growsTo_refused _ _
  · exact onExchange_growsTo s fun c => ctSendr_grows frame (.refl c.io)

theorem execCtStatus_growsTo (body : List Byte) (s : State) : GrowsTo s.io (execCtStatus body s) := by
  unfold execCtStatus
  split
  · exact growsTo_refused _ _
  · exact growsTo_next (grows_raiseSome _ _)

theorem replyAt_growsTo (size op id status : Half) (data : List Byte) (s : State) :
    GrowsTo s.io (replyAt size op id status data s) := receive_growsTo (s.returns .none) _

theorem execCtRecvr_growsTo (s : State) :
    GrowsTo s.io (execCtRecvr s) := by
  unfold execCtRecvr
  exact onExchange_growsTo s fun c => ctRecvr_grows (.refl c.io)

theorem execCtAttempt_growsTo (s : State) :
    GrowsTo s.io (execCtAttempt s) := by
  unfold execCtAttempt
  exact onExchange_growsTo s fun c => ctAttempt_grows (.refl c.io)

theorem execCtMatch_growsTo (hdr : ReplyHdr) (s : State) :
    GrowsTo s.io (execCtMatch hdr s) := by
  unfold execCtMatch
  exact onExchange_growsTo s fun c => grows_raiseSome c.io _

theorem execCtGather_growsTo (chunk : List Byte) (hdr : ReplyHdr) (s : State) :
    GrowsTo s.io (execCtGather chunk hdr s) := by
  unfold execCtGather
  exact onExchange_growsTo s fun c => ctGather_grows chunk hdr (.refl c.io)

/-! ### Every operation -/

/-- Every operation only adds to what is put out, and takes the host clock only on (R14, R271). -/
theorem exec_growsTo (i : Instr) (s : State) : GrowsTo s.io (exec i s) := by
  cases i with
  | ctConnect a v table => exact execCtConnect_growsTo a v table s
  | ctDisconnect a => exact execCtDisconnect_growsTo a s
  | ctExec a op payload => exact execCtExec_growsTo a op payload s
  | prConfigure a sid c => exact execPrConfigure_growsTo a sid c s
  | prArm a sid => exact execPrArm_growsTo a sid s
  | prStop a sid => exact execPrStop_growsTo a sid s
  | bdCalibrate a sid cal mn mx => exact execBdCalibrate_growsTo a sid cal mn mx s
  | bdReadtable a sid which idx => exact execBdReadtable_growsTo a sid which idx s
  | bdUnpack a sid input => exact execBdUnpack_growsTo a sid input s
  | csTohost a sid tick => exact execCsTohost_growsTo a sid tick s
  | csHostonly a sid => exact execCsHostonly_growsTo a sid s
  | prChunk sid bytes => exact chunkAt_growsTo s sid bytes
  | hwReset => exact growsTo_next (.refl _)
  | pktSof sid seq size ts => exact headerAt_growsTo s sid _ seq size ts
  | pktEof sid seq size ts => exact headerAt_growsTo s sid _ seq size ts
  | pktData sid type seq size ts => exact headerAt_growsTo s sid _ seq size ts
  | ctFrame op id payload => exact execCtFrame_growsTo op id payload s
  | rspAck size op id data => exact replyAt_growsTo size op id _ data s
  | rspNackCrc size op id data => exact replyAt_growsTo size op id _ data s
  | rspNackBadParams size op id data => exact replyAt_growsTo size op id _ data s
  | rspNackFileNotFound size op id data => exact replyAt_growsTo size op id _ data s
  | rspNackNotReady size op id data => exact replyAt_growsTo size op id _ data s
  | rspNackOverflow size op id data => exact replyAt_growsTo size op id _ data s
  | rspNackFsLocked size op id data => exact replyAt_growsTo size op id _ data s
  | rspNackOther size op id status data => exact replyAt_growsTo size op id status data s
  | ctSendr frame => exact execCtSendr_growsTo frame s
  | ctRecvr => exact execCtRecvr_growsTo s
  | ctAttempt => exact execCtAttempt_growsTo s
  | ctScan chunk => exact growsTo_next (grows_raiseSome _ _)
  | ctMatch hdr => exact execCtMatch_growsTo hdr s
  | ctGather chunk hdr => exact execCtGather_growsTo chunk hdr s
  | ctStatus body => exact execCtStatus_growsTo body s
  | prDiscard sid bytes pos => exact execPrDiscard_growsTo sid bytes pos s
  | prIgnore sid bytes pos => exact execPrIgnore_growsTo sid bytes pos s
  | prSeek sid bytes pos => exact execPrSeek_growsTo sid bytes pos s
  | prHdr sid bytes pos => exact execPrHdr_growsTo sid bytes pos s
  | prData sid bytes pos => exact execPrData_growsTo sid bytes pos s
  | prPktend sid => exact execPrPktend_growsTo sid s
  | prPktstart sid => exact execPrPktstart_growsTo sid s
  | prLosschk sid => exact execPrLosschk_growsTo sid s
  | prSof sid => exact execPrSof_growsTo sid s
  | prFramereset sid => exact execPrFramereset_growsTo sid s
  | prTime sid => exact execPrTime_growsTo sid s
  | prPiece sid bytes off => exact execPrPiece_growsTo sid bytes off s
  | prEof sid => exact execPrEof_growsTo sid s
  | prPad sid k => exact execPrPad_growsTo sid k s
  | prOverflow sid => exact execPrOverflow_growsTo sid s
  | prPublish sid => exact execPrPublish_growsTo sid s
  | csEstablish t => exact execCsEstablish_growsTo t s
  | csInit sid tick => exact execCsInit_growsTo sid tick s
  | csAdvance sid tick => exact execCsAdvance_growsTo sid tick s
  | csResync sid tick => exact execCsResync_growsTo sid tick s
  | bdFeed sid bytes => exact execBdFeed_growsTo sid bytes s
  | bdElement sid elem mode => exact execBdElement_growsTo sid elem mode s
  | bdMap sid code => exact execBdMap_growsTo sid code s

end Sys2Proof.Machine

namespace Sys2Proof.Settled

open Machine

/-- Settles O15. -/
theorem portsOnlyGrow : Obligations.PortsOnlyGrow := by
  intro i s t h
  obtain ⟨⟨os, htrace⟩, hlast, hreads⟩ := exec_growsTo i s t h
  exact ⟨⟨os, htrace.symm⟩, hlast, hreads⟩

end Sys2Proof.Settled
end

section
/-! PROOFS. Where a time conversion waits and how it goes on (R18, R72, R74, R211, R212): an operation of a stream as what it
leaves of its view, the waits, each way of going on, and a chunk that waits with its packet's time. -/

namespace Sys2Proof.Machine

/-! ### What an operation of a stream leaves -/

/-- The state in which an operation of a stream leaves its view and its value. -/
def State.leaves (s : State) (r : Ret) (v : RdCtx) : State := (s.withCtx v).returns r

/-- The outcome of an operation of a stream: its fault, or what it leaves. -/
def State.finish (s : State) (x : Except Fault (Ret × RdCtx)) : Outcome :=
  match x with
  | .error e => .fault e
  | .ok (r, v) => .next (s.leaves r v)

theorem onStream_eq_finish {s : State} {sid : Nat} {st : Stream} (hs : s.streams[sid]? = some st)
    (f : RdCtx → Except Fault (Ret × RdCtx)) : s.onStream sid f = s.finish (f (s.ctx sid st)) := by
  rw [State.onStream, hs]
  rfl

theorem modify_set {α : Type} (l : List α) (i : Nat) (a : α) (f : α → α) : (l.set i a).modify i f = l.set i (f a) := by
  induction l generalizing i with
  | nil => cases i <;> rfl
  | cons b l ih =>
    cases i with
    | zero => rfl
    | succ i => simpa using ih i

/-- A change of the record an operation has left. -/
theorem leaves_edit (s : State) (r r' : Ret) (v : RdCtx) (f : Stream → Stream) :
    (s.leaves r v).edit v.sid f r' = s.leaves r' { v with st := f v.st } := by
  simp [State.leaves, State.edit, State.withCtx, State.returns, modify_set]

theorem leaves_stream {s : State} {sid : Nat} {st : Stream} {v : RdCtx} (hs : s.streams[sid]? = some st)
    (hv : v.sid = sid) (r : Ret) : (s.leaves r v).streams[sid]? = some v.st := by
  have hlt : sid < s.streams.length := (List.getElem?_eq_some_iff.mp hs).1
  simp [State.leaves, hv, hlt]

/-- The view of a stream whose last operation has just left it. -/
theorem leaves_ctx {s : State} {v : RdCtx} (hcfg : v.cfg = s.cfg) (hcap : v.cap = s.cap) (r : Ret) :
    (s.leaves r v).ctx v.sid v.st = v := by
  obtain ⟨sid, cfg, cap, ref, clk, st, io⟩ := v
  obtain rfl : cfg = s.cfg := hcfg
  obtain rfl : cap = s.cap := hcap
  rfl

/-- What one operation of a stream leaves over what another of the same stream has left. -/
theorem leaves_leaves {s : State} {v u : RdCtx} (h : u.sid = v.sid) (r r' : Ret) :
    (s.leaves r v).leaves r' u = s.leaves r' u := by
  simp [State.leaves, State.withCtx, State.returns, h]

theorem finish_leaves {s : State} {v : RdCtx} {x : Except Fault (Ret × RdCtx)} (r : Ret)
    (h : Yields x fun p => p.2.sid = v.sid) : (s.leaves r v).finish x = s.finish x := by
  cases x with
  | error e => rfl
  | ok p => exact congrArg _ (leaves_leaves (h p rfl) r p.1)

/-! ### Conversions as operations -/

/-- The end of a conversion that an agent or nobody has asked for. -/
def settled (op : TimeOp) (a : Option Agent) (x : Except Fault (Run Micros)) : Except Fault (Ret × RdCtx) :=
  x >>= fun r => .ok (csSettle op a r)

theorem settled_sid {v : RdCtx} {x : Except Fault (Run Micros)} (op : TimeOp) (a : Option Agent)
    (h : YieldsConverted v x) : Yields (settled op a x) fun p => p.2.sid = v.sid := by
  refine h.bind fun r hr => yields_ok ?_
  cases r with
  | wait w u => exact hr.sid
  | done us u => cases a <;> exact hr.sid

/-- A conversion that nothing is in the way of begins (R281). -/
theorem onClock_eq_finish {s : State} {sid : Nat} {st : Stream} (hs : s.streams[sid]? = some st) (hj : st.job = none)
    (i : Instr) (op : TimeOp) (a : Option Agent) (f : RdCtx → Except Fault (Run Micros)) :
    s.onClock i sid op a f = s.finish (settled op a (f (s.ctx sid st))) := by
  rw [State.onClock, onReader_free hs (by simp [Stream.inJob, hj])]
  exact onStream_eq_finish hs _

theorem exec_csTohost {s : State} {sid : Nat} {st : Stream} (hs : s.streams[sid]? = some st) (hj : st.job = none)
    (tick : Tick) : exec (.csTohost (.rd sid) sid tick) s = s.finish
      (settled (.tohost (counterTick s.cfg tick)) (some (.rd sid))
        (csBegin (.tohost (counterTick s.cfg tick)) (s.ctx sid st))) := by
  rw [exec, execCsTohost, if_neg (by simp)]
  exact onClock_eq_finish hs hj _ _ _ _

theorem exec_csHostonly {s : State} {sid : Nat} {st : Stream} (hs : s.streams[sid]? = some st) (hj : st.job = none) :
    exec (.csHostonly (.rd sid) sid) s =
      s.finish (settled .hostonly (some (.rd sid)) (csBegin .hostonly (s.ctx sid st))) := by
  rw [exec, execCsHostonly, if_neg (by simp)]
  exact onClock_eq_finish hs hj _ _ _ _

theorem exec_csEstablish {s : State} {sid : Nat} {st : Stream} (hs : s.streams[sid]? = some st) (hj : st.job = none)
    (tick : Tick) : exec (.csEstablish ⟨sid, tick⟩) s = s.finish
      (settled (.establish (counterTick s.cfg tick)) none (csBegin (.establish (counterTick s.cfg tick)) (s.ctx sid st))) :=
  onClock_eq_finish hs hj _ _ _ _

theorem exec_csInit {s : State} {sid : Nat} {st : Stream} (hs : s.streams[sid]? = some st) (hj : st.job = none)
    (tick : Tick) : exec (.csInit sid tick) s = s.finish
      (settled (.init (counterTick s.cfg tick)) none (csBegin (.init (counterTick s.cfg tick)) (s.ctx sid st))) :=
  onClock_eq_finish hs hj _ _ _ _

/-- A conversion that was asked for goes on (R18). -/
theorem resumeReader_asked {s : State} {sid : Nat} {st : Stream} {w : TimeWait} {a : Option Agent}
    (hs : s.streams[sid]? = some st) (hj : st.job = some ⟨w, .asked a⟩) :
    s.resumeReader sid = s.finish (settled w.op a (csResume w (s.ctx sid { st with job := none }))) := by
  simp only [State.resumeReader, hs, hj]
  exact onStream_eq_finish hs _

/-- A chunk whose packet's time has come goes on (R18, R170). -/
theorem resumeReader_chunk {s : State} {sid : Nat} {st : Stream} {w : TimeWait} {rest : List Byte} {us : Micros}
    {v : RdCtx} (hs : s.streams[sid]? = some st) (hj : st.job = some ⟨w, .parser (.chunk rest)⟩)
    (hw : csResume w (s.ctx sid { st with job := none }) = .ok (.done us v)) :
    s.resumeReader sid = s.finish (packetTimed (.chunk rest) us v) := by
  have hw' : csResume w { s.ctx sid st with st := { (s.ctx sid st).st with job := none } } = .ok (.done us v) := hw
  simp only [State.resumeReader, hs, hj]
  rw [onStream_eq_finish hs]
  simp only [jobResume, hw']
  rfl

/-! ### Where a conversion waits -/

/-- Before a `CLK_LOCK` that is held or withheld a conversion waits (R72, R74; log entry 12). -/
theorem csEstablish_at_lock {v : RdCtx} (op : TimeOp) (h : v.clkLock ≠ none ∨ v.io.grantLocks = false) :
    csEstablish op v = .wait ⟨op, .lock⟩ v := by
  have hw : (v.clkLock.isSome || !v.io.grantLocks) = true := by simpa [Option.isSome_iff_ne_none] using h
  rw [csEstablish, if_pos hw]

theorem csEstablish_free {v : RdCtx} (op : TimeOp) (hc : v.clkLock = none) (hg : v.io.grantLocks = true) :
    csEstablish op v = csReference op { v with clkLock := some (.rd v.sid) } := by
  rw [csEstablish, if_neg (by simp [hc, hg])]

/-- Inside the lock a conversion waits for the reference's clock read (R212). -/
theorem csEstablish_at_reference {v : RdCtx} (op : TimeOp) (hc : v.clkLock = none) (hg : v.io.grantLocks = true)
    (hr : v.ref.valid = false) (hn : hostClock v.io = none) :
    csEstablish op v = .wait ⟨op, .reference⟩ { v with clkLock := some (.rd v.sid) } := by
  simp [csEstablish_free op hc hg, csReference, hr, hn]

/-- A reference that was there already is left as it is (R212). -/
theorem csEstablish_valid {v : RdCtx} (op : TimeOp) (hc : v.clkLock = none) (hg : v.io.grantLocks = true)
    (hr : v.ref.valid = true) : csEstablish op v = .done () v := by
  obtain ⟨sid, cfg, cap, ref, clk, st, io⟩ := v
  obtain rfl : clk = none := hc
  simp [csEstablish_free op rfl hg, csReference, show ref.valid = true from hr]

/-- The reference once its clock read is answered (R79, R212). -/
theorem csReference_answers {v : RdCtx} {now : Micros} {io : Io} (op : TimeOp) (hr : v.ref.valid = false)
    (hn : hostClock v.io = some (now, io)) :
    csReference op v = .done () { v with ref := ⟨true, op.tick, now⟩, io := io, clkLock := none } := by
  simp [csReference, hr, hn]

/-- The two conversions an agent asks for at `HOSTOP` (R211, R219). -/
def TimeOp.asks : TimeOp → Bool
  | .tohost _ => true
  | .hostonly => true
  | .establish _ => false
  | .init _ => false

/-- With a reference they establish none (R211, R219). -/
theorem csBegin_referenced {op : TimeOp} {v : RdCtx} (ha : op.asks = true) (hr : v.ref.valid = true) :
    csBegin op v = csEstablished op v := by
  cases op with
  | tohost tick => simp [csBegin, hr, csEstablished]
  | hostonly => simp [csBegin, hr, csEstablished]
  | establish tick => cases ha
  | init tick => cases ha

/-- Without one they establish it first, a zero tick apart (R211, R219). -/
theorem csBegin_unreferenced {op : TimeOp} {v : RdCtx} (ha : op.asks = true) (hr : v.ref.valid = false)
    (h0 : op ≠ .tohost 0) : csBegin op v = (csEstablish op v).bind fun _ v => csEstablished op v := by
  cases op with
  | tohost tick =>
    have ht : tick ≠ 0 := fun h => h0 (h ▸ rfl)
    simp [csBegin, hr, show ¬ tick = 0#32 from ht]
  | hostonly => simp [csBegin, hr]
  | establish tick => cases ha
  | init tick => cases ha

/-- What a conversion that waits leaves (R18). -/
theorem finish_settled_wait (s : State) (op : TimeOp) (a : Option Agent) (w : TimeWait) (v : RdCtx) :
    s.finish (settled op a (.ok (.wait w v))) = .next (s.leaves .waiting (v.park w (.asked a))) := rfl

/-- `CS.INIT` at a clock that has no answer waits there, `SY_FIRST` cleared (R213). -/
theorem csInit_waits {v : RdCtx} (op : TimeOp) (hn : hostClock v.io = none) :
    csInit op v = .ok (.wait ⟨op, .clock⟩ { v with st := { v.st with syFirst := false } }) := by
  simp [csInit, csInitRead, hn]

theorem csElapsed_waits {v : RdCtx} (op : TimeOp) (hn : hostClock v.io = none) :
    csElapsed op v = .ok (.wait ⟨op, .clock⟩ v) := by
  simp [csElapsed, hn]

theorem csConvert_waits {v : RdCtx} (op : TimeOp) (hf : v.st.syFirst = true) (hn : hostClock v.io = none) :
    csConvert op v = .ok (.wait ⟨op, .clock⟩ { v with st := { v.st with syFirst := false } }) := by
  rw [csConvert, if_pos hf, csInit_waits op hn]
  rfl

/-! ### Going on from a clock read -/

/-- A view with `SY_FIRST` and `REF_VALID` set to given values. -/
def RdCtx.marked (v : RdCtx) (first valid : Bool) : RdCtx :=
  { v with st := { v.st with syFirst := first }, ref := { v.ref with valid := valid } }

/-- What a conversion comes to, with those two flags set so. -/
def Run.marked {α : Type} (first valid : Bool) : Run α → Run α
  | .done a v => .done a (v.marked first valid)
  | .wait w v => .wait w (v.marked first valid)

theorem map_bind {α β γ : Type} (x : Except Fault α) (f : α → Except Fault β) (g : β → γ) :
    (x >>= f).map g = x >>= fun a => (f a).map g := by
  cases x <;> rfl

/-- `CS.INIT` looks at neither `SY_FIRST` nor `REF_VALID` (R213; log entry 35). -/
theorem csInitAt_marked (v : RdCtx) (first valid : Bool) (tick : Tick) (now : Micros) :
    csInitAt (v.marked first valid) tick now = (csInitAt v tick now).map fun p => (p.1, p.2.marked first valid) := by
  unfold csInitAt
  dsimp only
  rw [map_bind]
  refine bind_congr fun total => ?_
  rw [map_bind]
  rfl

theorem csInitRead_marked (op : TimeOp) (v : RdCtx) (first valid : Bool) :
    csInitRead op (v.marked first valid) = (csInitRead op v).map (Run.marked first valid) := by
  cases hn : hostClock v.io with
  | none => simp [csInitRead, show hostClock (v.marked first valid).io = none from hn, hn, Except.map, Run.marked]
  | some p =>
    have h := csInitAt_marked { v with io := p.2 } first valid op.tick p.1
    simp only [csInitRead, show hostClock (v.marked first valid).io = some p from hn, hn]
    rw [show { v.marked first valid with io := p.2 } = RdCtx.marked { v with io := p.2 } first valid from rfl, h]
    cases csInitAt { v with io := p.2 } op.tick p.1 <;> rfl

theorem csElapsed_marked (op : TimeOp) (v : RdCtx) (first valid : Bool) :
    csElapsed op (v.marked first valid) = (csElapsed op v).map (Run.marked first valid) := by
  cases hn : hostClock v.io with
  | none => simp [csElapsed, show hostClock (v.marked first valid).io = none from hn, hn, Except.map, Run.marked]
  | some p =>
    simp only [csElapsed, show hostClock (v.marked first valid).io = some p from hn, hn]
    rw [show (v.marked first valid).ref.host = v.ref.host from rfl]
    cases to64 ((p.1.toNat : Int) - v.ref.host.toNat) <;> rfl

end Sys2Proof.Machine
end

section
/-! PROOFS. How a conversion that waited goes on: from its clock read, from a lock, from the reference's read, and a chunk
after its packet's time (R18, R72, R74, R170, R212). -/

namespace Sys2Proof.Machine

/-- The three conversions that can wait at a later clock read (R211, R213, R219). -/
def TimeOp.reads : TimeOp → Bool
  | .tohost _ => true
  | .hostonly => true
  | .establish _ => false
  | .init _ => true

/-- A conversion that starts anew with a reference and `SY_FIRST` set comes to what one comes to that goes on from its clock
read, those two flags apart (log entries 37, 41). -/
theorem csBegin_marked {op : TimeOp} (v : RdCtx) (ho : op.reads = true) :
    ∃ first, csBegin op (v.marked true true) = (csRead op v).map (Run.marked first true) := by
  cases op with
  | tohost tick =>
    refine ⟨false, ?_⟩
    rw [csBegin_referenced rfl rfl, csEstablished, csConvert,
      if_pos (show (v.marked true true).st.syFirst = true from rfl)]
    show (csInitRead _ (v.marked false true) >>= fun r => r.bind csAccept) = _
    rw [csInitRead_marked, csRead]
    cases csInitRead (.tohost tick) v with
    | error e => rfl
    | ok r => cases r <;> rfl
  | hostonly => exact ⟨true, csElapsed_marked _ v true true⟩
  | establish tick => cases ho
  | init tick => exact ⟨false, csInitRead_marked _ v false true⟩

/-- What goes on from a clock read leaves the stream, `SY_FIRST` and the reference as they stand (log entries 37, 41). -/
def Run.Stands {α : Type} (v : RdCtx) (r : Run α) : Prop :=
  r.ctx.sid = v.sid ∧ r.ctx.st.syFirst = v.st.syFirst ∧ r.ctx.ref = v.ref

theorem csInitRead_stands (op : TimeOp) (v : RdCtx) : Yields (csInitRead op v) (Run.Stands v) := by
  unfold csInitRead
  split
  · exact yields_ok ⟨rfl, rfl, rfl⟩
  · refine Yields.bind (P := fun p => Run.Stands v (.done p.1 p.2)) ?_ fun p hp => yields_ok hp
    exact (yields_trivial _).bind fun _ _ => (yields_trivial _).bind fun _ _ => yields_ok ⟨rfl, rfl, rfl⟩

theorem csElapsed_stands (op : TimeOp) (v : RdCtx) : Yields (csElapsed op v) (Run.Stands v) := by
  unfold csElapsed
  split
  · exact yields_ok ⟨rfl, rfl, rfl⟩
  · exact (yields_trivial _).bind fun _ _ => yields_ok ⟨rfl, rfl, rfl⟩

theorem csRead_stands (op : TimeOp) (v : RdCtx) : Yields (csRead op v) (Run.Stands v) := by
  cases op with
  | tohost tick =>
    refine (csInitRead_stands _ v).bind fun r hr => ?_
    cases r <;> exact yields_ok hr
  | hostonly => exact csElapsed_stands _ v
  | establish tick => exact yields_ok ⟨rfl, rfl, rfl⟩
  | init tick => exact csInitRead_stands _ v

/-- The state after a restart with `SY_FIRST` and the reference put back. -/
def State.restored (s : State) (sid : Nat) (st : Stream) (t : State) : Outcome :=
  .next { t.edit sid (fun r => { r with syFirst := st.syFirst }) t.ret with ref := s.ref }

theorem restored_leaves {s : State} {st : Stream} {v : RdCtx} (first : Bool) (r : Ret) (hf : v.st.syFirst = st.syFirst)
    (href : v.ref = s.ref) : s.restored v.sid st (s.leaves r (v.marked first true)) = .next (s.leaves r v) := by
  simp [State.restored, State.leaves, State.edit, State.withCtx, State.returns, RdCtx.marked, modify_set, ← hf, ← href]

/-- The end of a conversion is the same whatever the two flags hold. -/
theorem settled_marked (op : TimeOp) (a : Option Agent) (first valid : Bool) (x : Except Fault (Run Micros)) :
    settled op a (x.map (Run.marked first valid)) =
      (settled op a x).map fun p => (p.1, p.2.marked first valid) := by
  cases x with
  | error e => rfl
  | ok r =>
    cases r with
    | wait w v => rfl
    | done us v => cases a <;> rfl

/-- The end of a conversion leaves the stream, `SY_FIRST` and the reference as they stand. -/
theorem settled_stands {v : RdCtx} {x : Except Fault (Run Micros)} (op : TimeOp) (a : Option Agent)
    (h : Yields x (Run.Stands v)) : Yields (settled op a x) fun p => Run.Stands v (.done p.1 p.2) := by
  refine h.bind fun r hr => yields_ok ?_
  cases r with
  | wait w u => exact hr
  | done us u => cases a <;> exact hr

/-- A conversion that waits at a clock read goes on as one that starts anew with `SY_FIRST` and a reference, both put back
after (log entries 37, 41). -/
theorem resumeReader_restarts {s : State} {sid : Nat} {st : Stream} {op : TimeOp} {a : Option Agent} {i : Instr}
    (hs : s.streams[sid]? = some st) (hj : st.job = some ⟨⟨op, .clock⟩, .asked a⟩) (ho : op.reads = true)
    (hexec : ∀ (t : State) (st' : Stream), t.cfg = s.cfg → t.streams[sid]? = some st' → st'.job = none →
      exec i t = t.finish (settled op a (csBegin op (t.ctx sid st')))) :
    s.resumeReader sid = andThen (exec i { s.put sid { st with job := none, syFirst := true } s.io s.ret with
      ref := { s.ref with valid := true } }) (s.restored sid st) := by
  let v := s.ctx sid { st with job := none }
  obtain ⟨first, hbegin⟩ := csBegin_marked v ho
  have hstart : exec i { s.put sid { st with job := none, syFirst := true } s.io s.ret with
      ref := { s.ref with valid := true } } = (s.leaves s.ret (v.marked true true)).finish
        (settled op a (csBegin op (v.marked true true))) :=
    hexec (s.leaves s.ret (v.marked true true)) _ rfl (leaves_stream hs rfl _) rfl
  have hsid : Yields (settled op a (csBegin op (v.marked true true))) fun p => p.2.sid = (v.marked true true).sid :=
    settled_sid op a (csBegin_converts op _)
  have hstands := settled_stands op a (csRead_stands op v)
  rw [hstart, finish_leaves _ hsid, hbegin, settled_marked, resumeReader_asked hs hj]
  show s.finish (settled op a (csRead op v)) = _
  cases hx : settled op a (csRead op v) with
  | error e => rfl
  | ok p =>
    obtain ⟨hv, hf, href⟩ := hstands p hx
    have hback := restored_leaves (s := s) (st := st) (v := p.2) first p.1 hf href
    rw [show p.2.sid = sid from hv] at hback
    exact hback.symm

/-! ### Going on from a lock or from the reference -/

/-- A conversion asked for that waits at the lock goes on as one that has just been asked for (R72, R74, R212). -/
theorem csResume_at_lock {op : TimeOp} {v : RdCtx} (ha : op.asks = true) (hc : v.clkLock = none)
    (hg : v.io.grantLocks = true) (h0 : v.ref.valid = true ∨ op ≠ .tohost 0) :
    csResume ⟨op, .lock⟩ v = csBegin op v := by
  show (csEstablish op v).bind (fun _ v => csEstablished op v) = _
  cases hr : v.ref.valid with
  | true =>
    rw [csEstablish_valid op hc hg hr, csBegin_referenced ha hr]
    rfl
  | false => exact (csBegin_unreferenced ha hr (by simpa [hr] using h0)).symm

/-- One that waits for the reference's clock read goes on as one that has just been asked for, with that reference (R212). -/
theorem csResume_at_reference {op : TimeOp} {v : RdCtx} {now : Micros} {io : Io} (ha : op.asks = true)
    (hr : v.ref.valid = false) (hn : hostClock v.io = some (now, io)) :
    csResume ⟨op, .reference⟩ v = csBegin op { v with ref := ⟨true, op.tick, now⟩, io := io, clkLock := none } := by
  rw [csBegin_referenced ha rfl]
  show (csReference op v).bind (fun _ v => csEstablished op v) = _
  rw [csReference_answers op hr hn]
  rfl

/-- The two conversions an agent asks for, as operations. -/
theorem exec_asked {s t : State} {sid : Nat} {st : Stream} {tick : Tick} {p : TimeOp × Option Agent × Instr}
    (hp : p ∈ [(TimeOp.tohost (counterTick s.cfg tick), some (Agent.rd sid), Instr.csTohost (.rd sid) sid tick),
      (.hostonly, some (.rd sid), .csHostonly (.rd sid) sid)])
    (hcfg : t.cfg = s.cfg) (hs : t.streams[sid]? = some st) (hj : st.job = none) :
    exec p.2.2 t = t.finish (settled p.1 p.2.1 (csBegin p.1 (t.ctx sid st))) := by
  simp only [List.mem_cons, List.not_mem_nil, or_false] at hp
  rcases hp with rfl | rfl
  · rw [← hcfg]
    exact exec_csTohost hs hj tick
  · exact exec_csHostonly hs hj

theorem asks_of_mem {cfg : Cfg} {sid : Nat} {tick : Tick} {p : TimeOp × Option Agent × Instr}
    (hp : p ∈ [(TimeOp.tohost (counterTick cfg tick), some (Agent.rd sid), Instr.csTohost (.rd sid) sid tick),
      (.hostonly, some (.rd sid), .csHostonly (.rd sid) sid)]) : p.1.asks = true ∧ p.1.reads = true := by
  simp only [List.mem_cons, List.not_mem_nil, or_false] at hp
  rcases hp with rfl | rfl <;> exact ⟨rfl, rfl⟩

/-! ### A chunk that goes on with its packet's time -/

theorem emit_inj {v u : RdCtx} {o : Output} (h : v.emit o = u.emit o) : v = u := by
  obtain ⟨sid, cfg, cap, ref, clk, st, ⟨c, sq, sr, rq, g, tr⟩⟩ := v
  obtain ⟨sid', cfg', cap', ref', clk', st', ⟨c', sq', sr', rq', g', tr'⟩⟩ := u
  simpa [RdCtx.emit, Io.emit] using h

/-- What an operation has left tells its view. -/
theorem leaves_inj {s : State} {sid : Nat} {st : Stream} {v u : RdCtx} {r r' : Ret} (hs : s.streams[sid]? = some st)
    (hv : v.sid = sid) (hu : u.sid = sid) (hcfg : v.cfg = u.cfg) (hcap : v.cap = u.cap)
    (h : s.leaves r v = s.leaves r' u) : v = u := by
  have hst : some v.st = some u.st := by rw [← leaves_stream hs hv r, ← leaves_stream hs hu r', h]
  have href : v.ref = u.ref := congrArg State.ref h
  have hclk : v.clkLock = u.clkLock := congrArg State.clkLock h
  have hio : v.io = u.io := congrArg State.io h
  obtain ⟨sid₁, cfg, cap, ref, clk, st₁, io⟩ := v
  obtain ⟨sid₂, cfg', cap', ref', clk', st₂, io'⟩ := u
  simp_all

/-- A conversion that has put out its time has come to its end with it. -/
theorem done_of_finish {s t : State} {op : TimeOp} {a : Agent} {x : Except Fault (Run Micros)} {us : Micros}
    (h : s.finish (settled op (some a) x) = .next t) (ht : t.ret = .time us) :
    ∃ v, x = .ok (.done us v) ∧ t = s.leaves (.time us) (v.emit (.result a (.time us))) := by
  cases x with
  | error e => cases h
  | ok r =>
    cases r with
    | wait w v =>
      rw [finish_settled_wait] at h
      cases h
      cases ht
    | done us' v =>
      have h' : s.leaves (op.value us') (v.emit (.result a (op.value us'))) = t := Host.Outcome.next.inj h
      subst h'
      have hval : op.value us' = .time us := ht
      cases op with
      | establish tick => cases hval
      | tohost tick | hostonly | init tick =>
        cases hval
        exact ⟨v, rfl, rfl⟩

/-- The end of a header, as an operation on the state its view has left: `PR.PKTEND`, or the registers of the payload
(R174). -/
theorem finish_headerTail {s : State} {sid : Nat} {st : Stream} {v : RdCtx} {h : Header}
    (hs : s.streams[sid]? = some st) (hv : v.sid = sid) (hcfg : v.cfg = s.cfg) (hcap : v.cap = s.cap)
    (hh : readHeader v.st.hdr = .ok h) :
    (if h.size = 0 then exec (.prPktend sid) (s.leaves .none v)
      else .next ((s.leaves .none v).edit sid
        (fun r => { r with dataLeft := h.size, dataOff := 0, pstate := .readingData }) .none)) =
      s.finish (headerTail v h >>= fun u => .ok (.none, u)) := by
  subst hv
  by_cases hz : h.size = 0
  · have hend : prPktend v = packetEnd v h := by
      rw [prPktend, hh]
      rfl
    have hsid : Yields (packetEnd v h >>= fun u => .ok (Ret.none, u)) fun p => p.2.sid = v.sid :=
      (packetEnd_onward v h).bind fun u hu => yields_ok hu.sid
    rw [if_pos hz, headerTail, if_pos hz, exec, execPrPktend, onStream_eq_finish (leaves_stream hs rfl _),
      leaves_ctx hcfg hcap, hend]
    exact finish_leaves _ hsid
  · rw [if_neg hz, headerTail, if_neg hz, leaves_edit]
    rfl

/-- A chunk on a stream whose lock has just been given back is the rest of the chunk that held it (R75, R170). -/
theorem exec_prChunk_rest {s : State} {sid : Nat} {st : Stream} {v : RdCtx} (rest : List Byte)
    (hs : s.streams[sid]? = some st) (hv : v.sid = sid) (hcfg : v.cfg = s.cfg) (hcap : v.cap = s.cap)
    (hl : v.st.lock = some (.rd sid)) (hj : v.st.job = none) :
    exec (.prChunk sid rest) ((s.leaves .none v).edit sid (fun r => { r with lock := none }) .none) =
      s.finish (chunkLoop rest.length v rest >>= fun u => .ok (chunkEnd u)) := by
  subst hv
  let w : RdCtx := { v with st := { v.st with lock := none } }
  have hlock : w.lock (.rd v.sid) = v := by
    obtain ⟨sid, cfg, cap, ref, clk, rec, io⟩ := v
    have hrec : { rec with lock := some (Agent.rd sid) } = rec := by rw [← hl]
    simp [RdCtx.lock, w, hrec]
  have hsid : Yields (chunkLoop rest.length v rest >>= fun u => .ok (chunkEnd u)) fun p => p.2.sid = v.sid := by
    refine (chunkLoop_ends rest.length v rest).bind fun u hu => yields_ok ?_
    unfold chunkEnd
    split <;> exact hu.sid
  rw [leaves_edit, exec, execPrChunk, chunkAt,
    onReader_free (leaves_stream (v := w) hs rfl _) (by simp [w, Stream.locked, Stream.inJob, hj]),
    onStream_eq_finish (leaves_stream (v := w) hs rfl _)]
  show (s.leaves .none w).finish (prChunk ((s.leaves .none w).ctx w.sid w.st) rest) = _
  rw [leaves_ctx (v := w) hcfg hcap, prChunk]
  show (s.leaves .none w).finish (chunkLoop rest.length (w.lock (.rd v.sid)) rest >>= fun u => .ok (chunkEnd u)) = _
  rw [hlock]
  exact finish_leaves (v := w) _ hsid

end Sys2Proof.Machine
end

section
/-! PROOFS. The waits of time conversions as the obligation states them (R18, R72, R74, R211, R212). -/

namespace Sys2Proof.Machine

/-! ### Where an operation waits -/

/-- The state with a conversion that was asked for put to wait. -/
def State.parks (s : State) (sid : Nat) (st : Stream) (op : TimeOp) (stage : TimeStage) (a : Option Agent) : State :=
  s.put sid { st with job := some ⟨⟨op, stage⟩, .asked a⟩ } s.io .waiting

/-- The same, with `SY_FIRST` cleared by a `CS.INIT` on the way (R213). -/
def State.parksFirst (s : State) (sid : Nat) (st : Stream) (op : TimeOp) (a : Option Agent) : State :=
  (s.parks sid st op .clock a).edit sid (fun r => { r with syFirst := false }) .waiting

theorem finish_parks {s : State} {sid : Nat} {st : Stream} {op : TimeOp} {stage : TimeStage} {a : Option Agent}
    {x : Except Fault (Run Micros)} (h : x = .ok (.wait ⟨op, stage⟩ (s.ctx sid st))) :
    s.finish (settled op a x) = .next (s.parks sid st op stage a) := by
  rw [h]
  rfl

theorem finish_parksFirst {s : State} {sid : Nat} {st : Stream} {op : TimeOp} {a : Option Agent}
    {x : Except Fault (Run Micros)} (h : x = .ok (.wait ⟨op, .clock⟩ (s.ctx sid { st with syFirst := false }))) :
    s.finish (settled op a x) = .next (s.parksFirst sid st op a) := by
  rw [h, finish_settled_wait]
  exact congrArg Host.Outcome.next (leaves_edit s .waiting .waiting
    (s.ctx sid { st with job := some ⟨⟨op, .clock⟩, .asked a⟩ }) (fun r => { r with syFirst := false })).symm

/-- A conversion that waits inside `CLK_LOCK` holds it (R212). -/
theorem finish_parks_locked {s : State} {sid : Nat} {st : Stream} {op : TimeOp} {a : Option Agent}
    {x : Except Fault (Run Micros)}
    (h : x = .ok (.wait ⟨op, .reference⟩ { s.ctx sid st with clkLock := some (.rd sid) })) :
    s.finish (settled op a x) = .next { s.parks sid st op .reference a with clkLock := some (.rd sid) } := by
  rw [h]
  rfl

theorem tohost_ne_zero {tick : Tick} (h : tick ≠ 0) : TimeOp.tohost tick ≠ .tohost 0 :=
  fun e => h (TimeOp.tohost.inj e)

/-- Without a reference, a conversion asked for waits where its `CS.ESTABLISH` does. -/
theorem csBegin_unreferenced_wait {op : TimeOp} {v u : RdCtx} {w : TimeWait} (ha : op.asks = true)
    (hr : v.ref.valid = false) (h0 : op ≠ .tohost 0) (hw : csEstablish op v = .wait w u) :
    csBegin op v = .ok (.wait w u) := by
  rw [csBegin_unreferenced ha hr h0, hw]
  rfl

theorem csBegin_establish_wait {tick : Tick} {v u : RdCtx} {w : TimeWait}
    (hw : csEstablish (.establish tick) v = .wait w u) : csBegin (.establish tick) v = .ok (.wait w u) := by
  rw [csBegin, hw]
  rfl

section
variable {s : State} {sid : Nat} {st : Stream} (hs : s.streams[sid]? = some st) (hj : st.job = none) (tick : Tick)
include hs hj

/-- Before a `CLK_LOCK` that is held or withheld (R72, R74; log entry 12). -/
theorem exec_waits_at_lock (h : s.clkLock ≠ none ∨ s.io.grantLocks = false) :
    let c := counterTick s.cfg tick
    exec (.csEstablish ⟨sid, tick⟩) s = .next (s.parks sid st (.establish c) .lock none) ∧
    (s.ref.valid = false →
      exec (.csHostonly (.rd sid) sid) s = .next (s.parks sid st .hostonly .lock (some (.rd sid))) ∧
      (c ≠ 0 → exec (.csTohost (.rd sid) sid tick) s = .next (s.parks sid st (.tohost c) .lock (some (.rd sid))))) := by
  have hlock : ∀ op, csEstablish op (s.ctx sid st) = .wait ⟨op, .lock⟩ (s.ctx sid st) :=
    fun op => csEstablish_at_lock op h
  refine ⟨?_, fun hr => ⟨?_, fun h0 => ?_⟩⟩
  · exact (exec_csEstablish hs hj tick).trans (finish_parks (csBegin_establish_wait (hlock _)))
  · exact (exec_csHostonly hs hj).trans (finish_parks (csBegin_unreferenced_wait rfl hr nofun (hlock _)))
  · exact (exec_csTohost hs hj tick).trans
      (finish_parks (csBegin_unreferenced_wait rfl hr (tohost_ne_zero h0) (hlock _)))

/-- Inside the lock, for the reference's clock read (R212). -/
theorem exec_waits_at_reference (hc : s.clkLock = none) (hg : s.io.grantLocks = true) (hr : s.ref.valid = false)
    (hn : hostClock s.io = none) :
    let c := counterTick s.cfg tick
    let locked : State → Outcome := fun t => .next { t with clkLock := some (.rd sid) }
    exec (.csEstablish ⟨sid, tick⟩) s = locked (s.parks sid st (.establish c) .reference none) ∧
    exec (.csHostonly (.rd sid) sid) s = locked (s.parks sid st .hostonly .reference (some (.rd sid))) ∧
    (c ≠ 0 →
      exec (.csTohost (.rd sid) sid tick) s = locked (s.parks sid st (.tohost c) .reference (some (.rd sid)))) := by
  have href : ∀ op, csEstablish op (s.ctx sid st) =
      .wait ⟨op, .reference⟩ { s.ctx sid st with clkLock := some (.rd sid) } :=
    fun op => csEstablish_at_reference op hc hg hr hn
  refine ⟨?_, ?_, fun h0 => ?_⟩
  · exact (exec_csEstablish hs hj tick).trans (finish_parks_locked (csBegin_establish_wait (href _)))
  · exact (exec_csHostonly hs hj).trans (finish_parks_locked (csBegin_unreferenced_wait rfl hr nofun (href _)))
  · exact (exec_csTohost hs hj tick).trans
      (finish_parks_locked (csBegin_unreferenced_wait rfl hr (tohost_ne_zero h0) (href _)))

/-- At a later clock read (R211, R219). -/
theorem exec_waits_at_clock (hr : s.ref.valid = true) (hn : hostClock s.io = none) :
    exec (.csHostonly (.rd sid) sid) s = .next (s.parks sid st .hostonly .clock (some (.rd sid))) ∧
    (st.syFirst = true → exec (.csTohost (.rd sid) sid tick) s =
      .next (s.parksFirst sid st (.tohost (counterTick s.cfg tick)) (some (.rd sid)))) := by
  refine ⟨?_, fun hf => ?_⟩
  · exact (exec_csHostonly hs hj).trans
      (finish_parks ((csBegin_referenced rfl hr).trans (csElapsed_waits .hostonly hn)))
  · exact (exec_csTohost hs hj tick).trans
      (finish_parksFirst ((csBegin_referenced rfl hr).trans (csConvert_waits _ hf hn)))

/-- `CS.INIT` started on its own, with a reference and without (R213; log entry 35). -/
theorem exec_csInit_waits (hn : hostClock s.io = none) :
    exec (.csInit sid tick) s = .next (s.parksFirst sid st (.init (counterTick s.cfg tick)) none) :=
  (exec_csInit hs hj tick).trans (finish_parksFirst (csInit_waits _ hn))

end

/-! ### Each goes on from there -/

/-- A conversion of a stream's view may begin on the state that the view was left in. -/
theorem finish_settled_leaves (s : State) (r : Ret) (v : RdCtx) (op : TimeOp) (a : Option Agent) :
    (s.leaves r v).finish (settled op a (csBegin op v)) = s.finish (settled op a (csBegin op v)) :=
  finish_leaves r (settled_sid op a (csBegin_converts op v))

section
variable {s : State} {sid : Nat} {st : Stream} (hs : s.streams[sid]? = some st)
include hs

variable {tick : Tick} {p : TimeOp × Option Agent × Instr}
  (hp : p ∈ [(TimeOp.tohost (counterTick s.cfg tick), some (Agent.rd sid), Instr.csTohost (.rd sid) sid tick),
    (.hostonly, some (.rd sid), .csHostonly (.rd sid) sid)])
include hp

/-- From the lock (R72, R74). -/
theorem resumeReader_at_lock (hjob : st.job = some ⟨⟨p.1, .lock⟩, .asked p.2.1⟩) (hc : s.clkLock = none)
    (hg : s.io.grantLocks = true) (h0 : s.ref.valid = true ∨ p.1 ≠ .tohost 0) :
    s.resumeReader sid = exec p.2.2 (s.put sid { st with job := none } s.io s.ret) := by
  let v := s.ctx sid { st with job := none }
  have hw : csResume ⟨p.1, .lock⟩ v = csBegin p.1 v := csResume_at_lock (asks_of_mem hp).1 hc hg h0
  have hexec : exec p.2.2 (s.leaves s.ret v) = (s.leaves s.ret v).finish (settled p.1 p.2.1 (csBegin p.1 v)) :=
    exec_asked hp rfl (leaves_stream hs rfl _) rfl
  calc s.resumeReader sid
    _ = s.finish (settled p.1 p.2.1 (csResume ⟨p.1, .lock⟩ v)) := resumeReader_asked hs hjob
    _ = s.finish (settled p.1 p.2.1 (csBegin p.1 v)) := by rw [hw]
    _ = exec p.2.2 (s.leaves s.ret v) := (hexec.trans (finish_settled_leaves ..)).symm

/-- From the reference's clock read, which establishes it and gives the lock back (R212). -/
theorem resumeReader_at_reference {now : Micros} {io : Io} (hjob : st.job = some ⟨⟨p.1, .reference⟩, .asked p.2.1⟩)
    (hr : s.ref.valid = false) (hn : hostClock s.io = some (now, io)) :
    s.resumeReader sid = exec p.2.2 { s.put sid { st with job := none } s.io s.ret with
      io := io, clkLock := none, ref := ⟨true, p.1.tick, now⟩ } := by
  let u := s.ctx sid { st with job := none }
  let v : RdCtx := { u with ref := ⟨true, p.1.tick, now⟩, io := io, clkLock := none }
  have hw : csResume ⟨p.1, .reference⟩ u = csBegin p.1 v := csResume_at_reference (asks_of_mem hp).1 hr hn
  have hexec : exec p.2.2 (s.leaves s.ret v) = (s.leaves s.ret v).finish (settled p.1 p.2.1 (csBegin p.1 v)) :=
    exec_asked hp rfl (leaves_stream (v := v) hs rfl _) rfl
  calc s.resumeReader sid
    _ = s.finish (settled p.1 p.2.1 (csResume ⟨p.1, .reference⟩ u)) := resumeReader_asked hs hjob
    _ = s.finish (settled p.1 p.2.1 (csBegin p.1 v)) := by rw [hw]
    _ = exec p.2.2 (s.leaves s.ret v) := (hexec.trans (finish_settled_leaves ..)).symm

/-- From a later clock read (R211, R219; log entries 37, 41). -/
theorem resumeReader_at_clock (hjob : st.job = some ⟨⟨p.1, .clock⟩, .asked p.2.1⟩) :
    s.resumeReader sid = andThen (exec p.2.2 { s.put sid { st with job := none, syFirst := true } s.io s.ret with
      ref := { s.ref with valid := true } }) (s.restored sid st) :=
  resumeReader_restarts hs hjob (asks_of_mem hp).2 fun _ _ hcfg ht hj => exec_asked hp hcfg ht hj

end

section
variable {s : State} {sid : Nat} {st : Stream} (hs : s.streams[sid]? = some st) {tick : Tick}
include hs

/-- `CS.ESTABLISH` from the lock. -/
theorem resumeReader_establish_at_lock
    (hjob : st.job = some ⟨⟨.establish (counterTick s.cfg tick), .lock⟩, .asked none⟩) :
    s.resumeReader sid = exec (.csEstablish ⟨sid, tick⟩) (s.put sid { st with job := none } s.io s.ret) := by
  let v := s.ctx sid { st with job := none }
  have hexec := exec_csEstablish (leaves_stream (v := v) hs rfl s.ret) rfl tick
  exact (resumeReader_asked hs hjob).trans (hexec.trans (finish_settled_leaves ..)).symm

/-- `CS.ESTABLISH` from the reference's clock read. -/
theorem resumeReader_establish_at_reference {now : Micros} {io : Io}
    (hjob : st.job = some ⟨⟨.establish (counterTick s.cfg tick), .reference⟩, .asked none⟩) (hr : s.ref.valid = false)
    (hn : hostClock s.io = some (now, io)) :
    s.resumeReader sid = .next { s.put sid { st with job := none } s.io s.ret with
      io := io, clkLock := none, ref := ⟨true, counterTick s.cfg tick, now⟩, ret := .none } := by
  have href := csReference_answers (v := s.ctx sid { st with job := none }) (.establish (counterTick s.cfg tick)) hr hn
  rw [resumeReader_asked hs hjob, csResume, href]
  rfl

/-- `CS.INIT` from its clock read (log entry 35). -/
theorem resumeReader_init_at_clock (hjob : st.job = some ⟨⟨.init (counterTick s.cfg tick), .clock⟩, .asked none⟩) :
    s.resumeReader sid = andThen (exec (.csInit sid tick) { s.put sid { st with job := none, syFirst := true } s.io s.ret with
      ref := { s.ref with valid := true } }) (s.restored sid st) := by
  refine resumeReader_restarts hs hjob rfl fun t st' hcfg ht hj => ?_
  rw [← hcfg]
  exact exec_csInit ht hj tick

end

end Sys2Proof.Machine
end

section
/-! PROOFS. A chunk that waited with its packet's time goes on with its rest (R18, R170, R182). -/

namespace Sys2Proof.Machine

/-! ### A chunk's conversion comes to its end -/

/-- A conversion asked for that has put out its time, from the view it left (R18). -/
theorem conversion_done {s : State} {sid : Nat} {st : Stream} {w : TimeWait} {us : Micros} {u : RdCtx}
    (hs : s.streams[sid]? = some st) (hsid : u.sid = sid) (hcfg : u.cfg = s.cfg) (hcap : u.cap = s.cap)
    (h : (s.put sid { st with job := some ⟨w, .asked (some (.rd sid))⟩ } s.io s.ret).resumeReader sid =
      .next (s.leaves (.time us) (u.emit (.result (.rd sid) (.time us))))) :
    csResume w (s.ctx sid { st with job := none }) = .ok (.done us u) := by
  let v := s.ctx sid { st with job := some ⟨w, .asked (some (.rd sid))⟩ }
  have hconv := csResume_converts w (s.ctx sid { st with job := none })
  have hview := settled_sid w.op (some (.rd sid)) hconv
  have hfin : s.finish (settled w.op (some (.rd sid)) (csResume w (s.ctx sid { st with job := none }))) =
      .next (s.leaves (.time us) (u.emit (.result (.rd sid) (.time us)))) :=
    (finish_leaves (v := v) s.ret (by exact hview)).symm.trans
      ((resumeReader_asked (leaves_stream (v := v) hs rfl s.ret) rfl).symm.trans h)
  obtain ⟨u', hx, ht⟩ := done_of_finish hfin rfl
  have hu : Converts (s.ctx sid { st with job := none }) u' := hconv _ hx
  have hemit := leaves_inj (v := u'.emit _) (u := u.emit _) hs hu.sid hsid (hu.cfg.trans hcfg.symm)
    (hu.cap.trans hcap.symm) ht.symm
  rw [← emit_inj hemit]
  exact hx

/-- A conversion keeps the registers of its record that are not the synchronizer's. -/
theorem csResume_keeps {w : TimeWait} {us : Micros} {v u : RdCtx} (h : csResume w v = .ok (.done us u)) :
    u.st.job = v.st.job ∧ u.st.lock = v.st.lock ∧ u.st.hdr = v.st.hdr := by
  have hrec : u.st = _ := (csResume_converts w v _ h).record
  rw [hrec]
  exact ⟨rfl, rfl, rfl⟩

theorem packetTimed_chunk {v : RdCtx} {h : Header} (rest : List Byte) (us : Micros)
    (hh : readHeader v.st.hdr = .ok h) :
    packetTimed (.chunk rest) us v = headerTail (prTimed v h us) h >>= fun u =>
      chunkLoop rest.length u rest >>= fun u => .ok (chunkEnd u) := by
  rw [packetTimed, hh]
  rfl

/-- A chunk that waited for its packet's time goes on with the header's end and then with its rest (R170, R174, R182). -/
theorem resumeReader_timed {s : State} {st : Stream} {w : TimeWait} {rest : List Byte} {h : Header} {us : Micros}
    {u : RdCtx} (hs : s.streams[u.sid]? = some st) (hcfg : u.cfg = s.cfg) (hcap : u.cap = s.cap)
    (hjob : st.job = some ⟨w, .parser (.chunk rest)⟩) (hlock : st.lock = some (.rd u.sid))
    (hread : readHeader st.hdr = .ok h)
    (hdone : csResume w (s.ctx u.sid { st with job := none }) = .ok (.done us u)) :
    s.resumeReader u.sid = andThen
      (if h.size = 0 then exec (.prPktend u.sid) (s.leaves .none (prTimed u h us))
        else .next ((s.leaves .none (prTimed u h us)).edit u.sid
          (fun r => { r with dataLeft := h.size, dataOff := 0, pstate := .readingData }) .none))
      fun t => exec (.prChunk u.sid rest) (t.edit u.sid (fun r => { r with lock := none }) .none) := by
  obtain ⟨hj, hl, hd⟩ := csResume_keeps hdone
  have hread' : readHeader u.st.hdr = .ok h := by
    rw [hd]
    exact hread
  rw [resumeReader_chunk hs hjob hdone, packetTimed_chunk rest us hread',
    finish_headerTail (v := prTimed u h us) hs rfl hcfg hcap hread']
  cases ht : headerTail (prTimed u h us) h with
  | error e => rfl
  | ok x =>
    have hon := headerTail_onward _ h x ht
    have hrest := exec_prChunk_rest rest hs hon.sid (hon.cfg.trans hcfg) (hon.cap.trans hcap)
      (hon.lock.trans (hl.trans hlock)) (hon.job.trans hj)
    exact hrest.symm

end Sys2Proof.Machine
end

section
/-! PROOFS. A chunk that comes to wait with its packet's time, from the magic to the clock read (R170, R173, R174, R177, R182),
and the obligation about every wait of a conversion. -/

namespace Sys2Proof.Machine

/-! ### A chunk whose packet's time waits -/

/-- The bytes of a header after its magic. -/
def headerRest (type seq size : Half) (ts : Tick) : List Byte :=
  halfBytes type ++ halfBytes seq ++ halfBytes size ++ wordBytes ts

@[simp] theorem headerRest_length (type seq size : Half) (ts : Tick) : (headerRest type seq size ts).length = 10 := rfl

/-- One round of a chunk that runs to its end (R170). -/
theorem chunkLoop_round {v u : RdCtx} {b : Byte} {bs : List Byte} {k : Nat} (fuel : Nat)
    (h : chunkRound v (b :: bs) = .ok (k + 1, .done () u)) :
    chunkLoop (fuel + 1) v (b :: bs) = chunkLoop fuel u (bs.drop k) := by
  rw [chunkLoop, h]
  rfl

/-- One round that waits: the rest of the chunk waits with it (R170). -/
theorem chunkLoop_waits {v u : RdCtx} {b : Byte} {bs : List Byte} {k : Nat} {w : TimeWait} (fuel : Nat)
    (h : chunkRound v (b :: bs) = .ok (k + 1, .wait w u)) :
    chunkLoop (fuel + 1) v (b :: bs) = .ok (u.park w (.parser (.chunk (bs.drop k)))) := by
  rw [chunkLoop, h]
  rfl

/-- The record of a parser that has met the magic (R173). -/
def Stream.atMagic (cap : Cap) (st : Stream) : Stream :=
  { st with hdr := tableCells 0 [magicLo cap, magicHi cap], hdrCnt := 2, magicHalf := false, pstate := .readingHeader }

/-- The magic brings the parser to the header (R173). -/
theorem chunkLoop_magic {v : RdCtx} (fuel : Nat) (rest : List Byte) (hp : v.st.pstate = .seekingMagic)
    (hm : v.st.magicHalf = false) (hh : v.st.hdr = []) :
    chunkLoop (fuel + 2) v (magicLo v.cap :: magicHi v.cap :: rest) =
      chunkLoop fuel { v with st := v.st.atMagic v.cap } rest := by
  let half : RdCtx := { v with st := { v.st with magicHalf := true } }
  have hlo : chunkRound v (magicLo v.cap :: magicHi v.cap :: rest) = .ok (0 + 1, .done () half) := by
    simp [chunkRound, hp, prSeek, hm, throughout, half]
  have hhi : chunkRound half (magicHi v.cap :: rest) = .ok (0 + 1, .done () { v with st := v.st.atMagic v.cap }) := by
    simp [chunkRound, hp, prSeek, throughout, half, hh, writeCells_nil_zero, Stream.atMagic]
  rw [chunkLoop_round (fuel + 1) hlo]
  exact chunkLoop_round fuel hhi

/-- The record once the whole header has come (R174). -/
def Stream.headed (h : List Byte) (st : Stream) : Stream := { st with hdr := tableCells 0 h, hdrCnt := 12 }

/-- The rest of a header brings `PR.HDR` to the packet's start (R174). -/
theorem chunkRound_header {v : RdCtx} (type seq size : Half) (ts : Tick) (rest : List Byte) :
    chunkRound { v with st := v.st.atMagic v.cap } (headerRest type seq size ts ++ rest) =
      headerComplete { v with st := (v.st.atMagic v.cap).headed (headerBytes v.cap.magicD2H type seq size ts) } >>=
        fun r => .ok (10, r) := by
  have hcells : writeCells (tableCells 0 [magicLo v.cap, magicHi v.cap]) 2 (headerRest type seq size ts) =
      tableCells 0 (headerBytes v.cap.magicD2H type seq size ts) :=
    writeCells_tableCells_zero (headerRest type seq size ts) [magicLo v.cap, magicHi v.cap]
  have htake : (headerRest type seq size ts ++ rest).take 10 = headerRest type seq size ts := List.take_left' rfl
  simp [chunkRound, prHdr, Stream.atMagic, Stream.headed, Config.hdrSize, htake, hcells]

/-- The view of a packet that is no start of a frame, from its loss check on (R178, R179). -/
def RdCtx.started (v : RdCtx) (h : Header) : RdCtx :=
  let next := nextSeq v.cfg v.st.lastSeq
  let loss := lossOf next h.seq
  { v with
    st := { v.st with lastSeq := h.seq, lossMark := v.st.lossMark || loss, lossLast := loss }
    io := v.io.puts (.diagPacket v.sid h.type h.seq h.size h.ts ::
      (if loss then [.event (.packetLoss v.sid next h.seq)] else [])) }

/-- A packet that is no start of a frame goes on to its time (R177). -/
theorem packetStart_started {v : RdCtx} {h : Header} (hs : h.type ≠ v.st.conf.typeSof) :
    packetStart v h = prTime (v.started h) h := by
  have hsof : isSof v.st h = false := by simpa [isSof] using hs
  unfold packetStart
  cases hl : lossOf (nextSeq v.cfg v.st.lastSeq) h.seq <;>
    simp [hsof, prLosschk, lossFlags, RdCtx.started, RdCtx.emit, RdCtx.raise, Io.raise, Io.emit, Io.puts, hl]

/-- A packet's time from the host clock alone waits where that clock has no answer (R182, R219). -/
theorem prTime_waits {v : RdCtx} {h : Header} (hm : v.st.conf.tsMode = .hostOnly) (hr : v.ref.valid = true)
    (hn : hostClock v.io = none) : prTime v h = .ok (.wait ⟨.hostonly, .clock⟩ v) := by
  rw [prTime, timeOp, hm]
  show csBegin .hostonly v >>= _ = _
  rw [csBegin_referenced rfl hr, csEstablished, csElapsed_waits .hostonly hn]
  rfl

theorem headerComplete_waits {v u : RdCtx} {h : Header} {w : TimeWait} (hh : readHeader v.st.hdr = .ok h)
    (hw : packetStart v h = .ok (.wait w u)) : headerComplete v = .ok (.wait w u) := by
  rw [headerComplete, hh]
  show packetStart v h >>= _ = _
  rw [hw]
  rfl

/-- What is put out does not answer the clock. -/
theorem hostClock_puts {io : Io} (os : List Output) (h : hostClock io = none) : hostClock (io.puts os) = none := by
  have hd : clockDraw io.clock = none := hostClock_eq_none_iff.mp h
  exact hostClock_eq_none_iff.mpr hd

/-- A packet with no start of a frame whose time waits: how far its chunk comes (R170, R173, R174, R177). -/
theorem chunkLoop_time_waits {v : RdCtx} {type seq size : Half} {ts : Tick} (rest : List Byte) (n : Nat)
    (hp : v.st.pstate = .seekingMagic) (hm : v.st.magicHalf = false) (hh : v.st.hdr = []) (hs : type ≠ v.st.conf.typeSof)
    (ht : v.st.conf.tsMode = .hostOnly) (hr : v.ref.valid = true) (hn : hostClock v.io = none) :
    let bytes := headerBytes v.cap.magicD2H type seq size ts
    chunkLoop (n + 3) v (bytes ++ rest) =
      .ok ((RdCtx.started { v with st := (v.st.atMagic v.cap).headed bytes } ⟨v.cap.magicD2H, type, seq, size, ts⟩).park
        ⟨.hostonly, .clock⟩ (.parser (.chunk rest))) := by
  intro bytes
  let u : RdCtx := { v with st := (v.st.atMagic v.cap).headed bytes }
  have hread : readHeader u.st.hdr = .ok ⟨v.cap.magicD2H, type, seq, size, ts⟩ := readHeader_headerBytes ..
  have hstart : packetStart u ⟨v.cap.magicD2H, type, seq, size, ts⟩ =
      .ok (.wait ⟨.hostonly, .clock⟩ (u.started ⟨v.cap.magicD2H, type, seq, size, ts⟩)) :=
    (packetStart_started hs).trans (prTime_waits ht hr (hostClock_puts _ hn))
  have hround : chunkRound { v with st := v.st.atMagic v.cap } (headerRest type seq size ts ++ rest) =
      .ok (9 + 1, .wait ⟨.hostonly, .clock⟩ (u.started ⟨v.cap.magicD2H, type, seq, size, ts⟩)) := by
    rw [chunkRound_header type seq size ts rest, headerComplete_waits hread hstart]
    rfl
  exact (chunkLoop_magic (n + 1) _ hp hm hh).trans (chunkLoop_waits n hround)

/-- A chunk that waits with its packet's time keeps its stream's lock (R75, R170). -/
theorem prChunk_time_waits {v : RdCtx} {type seq size : Half} {ts : Tick} (rest : List Byte)
    (hp : v.st.pstate = .seekingMagic) (hm : v.st.magicHalf = false) (hh : v.st.hdr = []) (hs : type ≠ v.st.conf.typeSof)
    (ht : v.st.conf.tsMode = .hostOnly) (hr : v.ref.valid = true) (hn : hostClock v.io = none) :
    let bytes := headerBytes v.cap.magicD2H type seq size ts
    prChunk v (bytes ++ rest) = .ok (.waiting, (RdCtx.started
      { v with st := ((v.lock (.rd v.sid)).st.atMagic v.cap).headed bytes } ⟨v.cap.magicD2H, type, seq, size, ts⟩).park
        ⟨.hostonly, .clock⟩ (.parser (.chunk rest))) := by
  intro bytes
  have hloop := chunkLoop_time_waits (v := v.lock (.rd v.sid)) (ts := ts) (size := size) (seq := seq) rest
    (rest.length + 9) hp hm hh hs ht hr hn
  have hlen : (bytes ++ rest).length = rest.length + 9 + 3 := by simp [bytes]; omega
  rw [prChunk, hlen]
  show (chunkLoop (rest.length + 9 + 3) (v.lock (.rd v.sid))
    (headerBytes (v.lock (.rd v.sid)).cap.magicD2H type seq size ts ++ rest)) >>= _ = _
  rw [hloop]
  rfl

/-- A chunk of a packet that is no start of a frame waits with its packet's time (R170, R177, R182). -/
theorem exec_prChunk_waits {s : State} {sid : Nat} {st : Stream} {type seq size : Half} {ts : Tick} (rest : List Byte)
    (hs : s.streams[sid]? = some st) (hj : st.job = none) (hl : st.lock = none) (hp : st.pstate = .seekingMagic)
    (hm : st.magicHalf = false) (hh : st.hdr = []) (hsof : type ≠ st.conf.typeSof) (ht : st.conf.tsMode = .hostOnly)
    (hr : s.ref.valid = true) (hn : hostClock s.io = none) :
    let loss := lossOf (nextSeq s.cfg st.lastSeq) seq
    exec (.prChunk sid (headerBytes s.cap.magicD2H type seq size ts ++ rest)) s = .next (s.put sid
      { st with
        lock := some (.rd sid), job := some ⟨⟨.hostonly, .clock⟩, .parser (.chunk rest)⟩, pstate := .readingHeader
        hdr := tableCells 0 (headerBytes s.cap.magicD2H type seq size ts), hdrCnt := 12, lastSeq := seq
        lossMark := st.lossMark || loss, lossLast := loss }
      (s.io.puts (.diagPacket sid type seq size ts ::
        (if loss then [.event (.packetLoss sid (nextSeq s.cfg st.lastSeq) seq)] else []))) .waiting) := by
  intro loss
  have hwait := prChunk_time_waits (v := s.ctx sid st) (ts := ts) (size := size) (seq := seq) rest hp hm hh hsof ht hr hn
  rw [exec, execPrChunk, chunkAt, onReader_free hs (by simp [Stream.locked, Stream.inJob, hj, hl]), onStream_eq_finish hs]
  refine (congrArg s.finish hwait).trans ?_
  obtain ⟨lock, job, cv, conf, ps, il, mh⟩ := st
  obtain rfl : mh = false := hm
  rfl

end Sys2Proof.Machine

namespace Sys2Proof.Settled
open Machine

/-- Settles O35. Each wait and each way of going on is a lemma of its own; the obligation is their conjunction. -/
theorem conversionWaits : Obligations.ConversionWaits := by
  intro s sid st hs
  refine ⟨fun hj tick => ⟨exec_waits_at_lock hs hj tick, exec_waits_at_reference hs hj tick, exec_waits_at_clock hs hj tick,
      exec_csInit_waits hs hj tick⟩,
    fun tick p hp => ⟨resumeReader_at_lock hs hp, fun now io => resumeReader_at_reference hs hp,
      fun hjob _ => resumeReader_at_clock hs hp hjob⟩,
    fun tick => ⟨resumeReader_establish_at_lock hs, fun now io => resumeReader_establish_at_reference hs,
      fun hjob _ => resumeReader_init_at_clock hs hjob⟩, ?_, ?_⟩
  · intro w rest magic type seq size ts ref clk st' io us hjob hlock hhdr h timed
    have hread : readHeader st.hdr = .ok ⟨magic, type, seq, size, ts⟩ := by
      rw [hhdr]
      exact readHeader_headerBytes ..
    let u : RdCtx := { s.ctx sid st' with io := io, ref := ref, clkLock := clk }
    exact resumeReader_timed (u := u) hs rfl rfl hjob hlock hread (conversion_done (u := u) hs rfl rfl rfl h)
  · intro type seq size ts rest hj hl hp hm hh hsof ht hr hn next loss
    have hloss : lossOf (nextSeq s.cfg st.lastSeq) seq = loss := by
      simp [lossOf, nextSeq, loss, next, bne, decide_not, beq_eq_decide]
    rw [← hloss]
    exact exec_prChunk_waits rest hs hj hl hp hm hh hsof ht hr hn

end Sys2Proof.Settled
end

section
/-! PROOFS. What an operation of one stream sees and changes: its own record, the shared reference with its lock, the ports,
what is held and the value returned (R3, R20, R78, R255, R298); and who writes a stream's configuration and tables (R30, R39
to R41). -/

namespace Sys2Proof.Machine

/-! ### What the frame actions change of a record -/

/-- How a frame action leaves its view: of the record only the registers of the frame and of the packet in hand have changed,
and nothing that is shared but the trace (R180 to R187). -/
structure Frames (v u : RdCtx) : Prop where
  sid : u.sid = v.sid
  cfg : u.cfg = v.cfg
  cap : u.cap = v.cap
  ref : u.ref = v.ref
  clkLock : u.clkLock = v.clkLock
  clock : u.io.clock = v.io.clock
  recvQ : u.io.recvQ = v.io.recvQ
  record : u.st = { v.st with
    out := u.st.out, outLen := u.st.outLen, cont := u.st.cont, contLen := u.st.contLen, corrupt := u.st.corrupt
    drop := u.st.drop, trailPad := u.st.trailPad, lossMark := u.st.lossMark, lossFirst := u.st.lossFirst
    lossLast := u.st.lossLast, frameId := u.st.frameId, pktTime := u.st.pktTime, lastSeq := u.st.lastSeq }

theorem Frames.refl (v : RdCtx) : Frames v v := ⟨rfl, rfl, rfl, rfl, rfl, rfl, rfl, rfl⟩

theorem Frames.trans {v u w : RdCtx} (h : Frames v u) (k : Frames u w) : Frames v w :=
  ⟨k.sid.trans h.sid, k.cfg.trans h.cfg, k.cap.trans h.cap, k.ref.trans h.ref, k.clkLock.trans h.clkLock,
    k.clock.trans h.clock, k.recvQ.trans h.recvQ, by rw [k.record, h.record]⟩

theorem Frames.emit {v u : RdCtx} (h : Frames v u) (o : Output) : Frames v (u.emit o) :=
  ⟨h.sid, h.cfg, h.cap, h.ref, h.clkLock, h.clock, h.recvQ, h.record⟩

theorem prOverflow_frames (v : RdCtx) : Frames v (prOverflow v) := ⟨rfl, rfl, rfl, rfl, rfl, rfl, rfl, rfl⟩

theorem appendOut_frames (v : RdCtx) (bs : List Byte) : Frames v (appendOut v bs) := by
  unfold appendOut
  dsimp only
  split
  · exact prOverflow_frames v
  · exact ⟨rfl, rfl, rfl, rfl, rfl, rfl, rfl, rfl⟩

theorem bdElementOut_frames (v : RdCtx) (w n : Nat) (elem : List Byte) : Yields (bdElementOut v w n elem) (Frames v) :=
  (yields_trivial _).bind fun _ _ => yields_ok (appendOut_frames v _)

theorem feedElements_frames (w n k : Nat) :
    ∀ (v : RdCtx) (bytes : List Byte), Yields (feedElements w n k v bytes) fun p => Frames v p.1 := by
  induction k with
  | zero => exact fun v bytes => yields_ok (.refl v)
  | succ k ih =>
    intro v bytes
    refine (bdElementOut_frames v w n _).bind fun u hu => ?_
    split
    · exact yields_ok hu
    · exact (ih u _).mono fun _ => hu.trans

/-- A change of the continuation bytes alone. -/
theorem frames_cont (v : RdCtx) (cont : Memory) (n : BitVec 5) :
    Frames v { v with st := { v.st with cont := cont, contLen := n } } := ⟨rfl, rfl, rfl, rfl, rfl, rfl, rfl, rfl⟩

theorem feedWhole_frames (v : RdCtx) (w n : Nat) (bytes : List Byte) : Yields (feedWhole v w n bytes) (Frames v) := by
  refine (feedElements_frames w n _ v bytes).bind fun (u, rest) hu => ?_
  cases rest with
  | none => exact yields_ok hu
  | some r => exact yields_ok (hu.trans (frames_cont u _ _))

theorem bdFeed_frames (v : RdCtx) (w n : Nat) (bytes : List Byte) : Yields (bdFeed v w n bytes) (Frames v) := by
  unfold bdFeed
  dsimp only
  split
  · exact feedWhole_frames v w n bytes
  · split
    · exact yields_ok (frames_cont v _ _)
    · refine (yields_trivial _).bind fun elem _ => ?_
      refine ((bdElementOut_frames _ w n elem).mono fun _ => (frames_cont v _ _).trans).bind fun u hu => ?_
      split
      · exact yields_ok hu
      · exact (feedWhole_frames _ w n _).mono fun _ => (hu.trans (frames_cont u [] 0)).trans

theorem prPad_frames (v : RdCtx) (k : Nat) : Frames v (prPad v k) := by
  unfold prPad
  split
  · exact .refl v
  · exact appendOut_frames v _

theorem prFrameReset_frames (v : RdCtx) : Frames v (prFrameReset v) := ⟨rfl, rfl, rfl, rfl, rfl, rfl, rfl, rfl⟩

theorem prSof_frames (v : RdCtx) (h : Header) : Frames v (prSof v h) := by
  unfold prSof
  dsimp only
  split
  · exact Frames.trans (by exact ⟨rfl, rfl, rfl, rfl, rfl, rfl, rfl, rfl⟩) (prPad_frames _ _)
  · exact prFrameReset_frames v

theorem prPublish_frames (v : RdCtx) : Yields (prPublish v) (Frames v) :=
  (yields_trivial _).bind fun _ _ => yields_ok ⟨rfl, rfl, rfl, rfl, rfl, rfl, rfl, rfl⟩

/-- The view of end-of-frame as `PR.PUBLISH` finds it: padded, checked, its event raised, the frame counted (R184). -/
def RdCtx.frameEnd (v : RdCtx) : RdCtx :=
  let u := prPad v v.st.trailPad.toNat
  let w : RdCtx := { u with st := eofChecks u.cfg u.st }
  let x := if w.st.corrupt then w.raise (.frameCorrupted w.sid) else w
  { x with st := { x.st with frameId := x.st.frameId + 1 } }

theorem prEof_eq (v : RdCtx) : prEof v = (prPublish v.frameEnd).map prFrameReset := by
  unfold prEof RdCtx.frameEnd
  dsimp only
  cases prPublish _ <;> rfl

theorem frameEnd_frames (v : RdCtx) : Frames v v.frameEnd := by
  refine (prPad_frames v v.st.trailPad.toNat).trans ?_
  unfold RdCtx.frameEnd
  dsimp only
  split <;> exact ⟨rfl, rfl, rfl, rfl, rfl, rfl, rfl, rfl⟩

theorem prEof_frames (v : RdCtx) : Yields (prEof v) (Frames v) := by
  rw [prEof_eq]
  exact (prPublish_frames _).bind fun u hu => yields_ok (((frameEnd_frames v).trans hu).trans (prFrameReset_frames u))

theorem prPiece_frames (v : RdCtx) (bytes : List Byte) : Yields (prPiece v bytes) (Frames v) := by
  unfold prPiece
  split
  · exact yields_ok (.refl v)
  · split
    · exact yields_ok (appendOut_frames v bytes)
    · exact bdFeed_frames v 11 _ bytes
    · exact bdFeed_frames v 12 _ bytes
    · exact yields_error _

theorem prLosschk_frames (v : RdCtx) (h : Header) : Frames v (prLosschk v h).2 := by
  unfold prLosschk
  dsimp only
  split <;> exact ⟨rfl, rfl, rfl, rfl, rfl, rfl, rfl, rfl⟩

theorem prTimed_frames (v : RdCtx) (h : Header) (us : Micros) : Frames v (prTimed v h us) :=
  ⟨rfl, rfl, rfl, rfl, rfl, rfl, rfl, rfl⟩

/-- The view of `PR.PKTSTART` before the packet's time: the packet reported, its loss checked, a frame started (R177). -/
def RdCtx.packetBegun (v : RdCtx) (h : Header) : RdCtx :=
  let u := v.emit (.diagPacket v.sid h.type h.seq h.size h.ts)
  let w := if isSof v.st h then prSof (prLosschk u h).2 h else (prLosschk u h).2
  { w with st := lossFlags w.st (isSof v.st h) (prLosschk u h).1 }

theorem packetStart_eq (v : RdCtx) (h : Header) : packetStart v h =
    if isSof v.st h && (v.packetBegun h).cap.sofTsPad then .ok (.done () (v.packetBegun h))
    else prTime (v.packetBegun h) h := rfl

theorem packetBegun_frames (v : RdCtx) (h : Header) : Frames v (v.packetBegun h) := by
  have hchecked := ((Frames.refl v).emit (.diagPacket v.sid h.type h.seq h.size h.ts)).trans (prLosschk_frames _ h)
  have hflags (u : RdCtx) (sof now : Bool) : Frames u { u with st := lossFlags u.st sof now } :=
    ⟨rfl, rfl, rfl, rfl, rfl, rfl, rfl, rfl⟩
  unfold RdCtx.packetBegun
  dsimp only
  split
  · exact (hchecked.trans (prSof_frames _ h)).trans (hflags _ _ _)
  · exact hchecked.trans (hflags _ _ _)

/-! ### What every part of a stream's operation leaves of the configuration -/

/-- The configuration registers of R30. -/
def Stream.setup (st : Stream) : StreamConfig × Bool := (st.conf, st.cfgValid)

/-- The calibration registers and the tables (R39 to R41). -/
def Stream.tables (st : Stream) : Bool × CalRecord × Half × Half × Cells Half × Cells Half :=
  (st.calValid, st.cal, st.minCut, st.maxCut, st.s2d, st.d2s)

/-- A part of an operation that leaves the stream's configuration, calibration and tables. -/
structure Keeps (v u : RdCtx) : Prop where
  sid : u.sid = v.sid
  setup : u.st.setup = v.st.setup
  tables : u.st.tables = v.st.tables

theorem Keeps.refl (v : RdCtx) : Keeps v v := ⟨rfl, rfl, rfl⟩

theorem Keeps.trans {v u w : RdCtx} (h : Keeps v u) (k : Keeps u w) : Keeps v w :=
  ⟨k.sid.trans h.sid, k.setup.trans h.setup, k.tables.trans h.tables⟩

theorem Frames.keeps {v u : RdCtx} (h : Frames v u) : Keeps v u := ⟨h.sid, by rw [h.record]; rfl, by rw [h.record]; rfl⟩

theorem Converts.keeps {v u : RdCtx} (h : Converts v u) : Keeps v u :=
  ⟨h.sid, by rw [h.record]; rfl, by rw [h.record]; rfl⟩

theorem Run.bind_keeps {α β : Type} {v : RdCtx} {r : Run α} {next : α → RdCtx → Except Fault (Run β)}
    (hr : Keeps v r.ctx) (hn : ∀ a u, Yields (next a u) fun q => Keeps u q.ctx) :
    Yields (r.bind next) fun q => Keeps v q.ctx := by
  cases r with
  | done a u => exact (hn a u).mono fun _ => hr.trans
  | wait w u => exact yields_ok hr

theorem prTime_keeps (v : RdCtx) (h : Header) : Yields (prTime v h) fun r => Keeps v r.ctx :=
  (csBegin_converts _ v).bind fun _ hr =>
    Run.bind_keeps hr.keeps fun us u => yields_ok (prTimed_frames u h us).keeps

theorem packetStart_keeps (v : RdCtx) (h : Header) : Yields (packetStart v h) fun r => Keeps v r.ctx := by
  rw [packetStart_eq]
  have hbegun := (packetBegun_frames v h).keeps
  split
  · exact yields_ok hbegun
  · exact (prTime_keeps _ h).mono fun _ => hbegun.trans

theorem packetEnd_keeps (v : RdCtx) (h : Header) : Yields (packetEnd v h) (Keeps v) := by
  have hend (u : RdCtx) (hu : Keeps v u) : Keeps v { u with st := parserReset u.st .seekingMagic } :=
    hu.trans ⟨rfl, rfl, rfl⟩
  unfold packetEnd
  dsimp only
  split
  · exact (prEof_frames v).bind fun u hu => yields_ok (hend u hu.keeps)
  · exact yields_ok (hend v (.refl v))

theorem prPktend_keeps (v : RdCtx) : Yields (prPktend v) (Keeps v) :=
  (yields_trivial _).bind fun h _ => packetEnd_keeps v h

theorem headerTail_keeps (v : RdCtx) (h : Header) : Yields (headerTail v h) (Keeps v) := by
  unfold headerTail
  split
  · exact packetEnd_keeps v h
  · exact yields_ok ⟨rfl, rfl, rfl⟩

theorem headerComplete_keeps (v : RdCtx) : Yields (headerComplete v) fun r => Keeps v r.ctx :=
  (yields_trivial _).bind fun h _ => (packetStart_keeps v h).bind fun _ hr =>
    Run.bind_keeps hr fun _ u => (headerTail_keeps u h).bind fun _ hw => yields_ok hw

theorem prIgnore_keeps (v : RdCtx) (rest : List Byte) : Keeps v (prIgnore v rest).2 := ⟨rfl, rfl, rfl⟩

theorem prSeek_keeps (v : RdCtx) (b : Byte) : Keeps v (prSeek v b).2 := by
  unfold prSeek
  split <;> exact ⟨rfl, rfl, rfl⟩

theorem prHdr_keeps (v : RdCtx) (rest : List Byte) : Yields (prHdr v rest) fun p => Keeps v p.2.ctx := by
  unfold prHdr
  dsimp only
  split
  · exact (headerComplete_keeps _).bind fun r hr => yields_ok (Keeps.trans (by exact ⟨rfl, rfl, rfl⟩) hr)
  · exact yields_ok ⟨rfl, rfl, rfl⟩

theorem prData_keeps (v : RdCtx) (rest : List Byte) : Yields (prData v rest) fun p => Keeps v p.2 := by
  refine (prPiece_frames v _).bind fun u hu => ?_
  have hleft (off left : Half) : Keeps v { u with st := { u.st with dataOff := off, dataLeft := left } } :=
    hu.keeps.trans ⟨rfl, rfl, rfl⟩
  dsimp only
  split
  · exact (prPktend_keeps _).bind fun w hw => yields_ok ((hleft _ _).trans hw)
  · exact yields_ok (hleft _ _)

theorem chunkRound_keeps (v : RdCtx) (rest : List Byte) : Yields (chunkRound v rest) fun p => Keeps v p.2.ctx := by
  unfold chunkRound
  split
  · exact yields_ok (.refl v)
  · exact yields_ok (prIgnore_keeps v rest)
  · split
    · exact yields_ok (.refl v)
    · exact yields_ok (prSeek_keeps v _)
  · exact prHdr_keeps v rest
  · exact (prData_keeps v rest).bind fun p hp => yields_ok hp

theorem chunkLoop_keeps (fuel : Nat) : ∀ (v : RdCtx) (bytes : List Byte), Yields (chunkLoop fuel v bytes) (Keeps v) := by
  induction fuel with
  | zero =>
    intro v bytes
    cases bytes with
    | nil => exact yields_ok (.refl v)
    | cons b bs => exact yields_error _
  | succ fuel ih =>
    intro v bytes
    cases bytes with
    | nil => exact yields_ok (.refl v)
    | cons b bs =>
      refine (chunkRound_keeps v (b :: bs)).bind fun (k, r) hr => ?_
      dsimp only
      split
      · exact yields_error _
      · cases r with
        | done a u => exact (ih u _).mono fun _ => Keeps.trans hr
        | wait w u => exact yields_ok (Keeps.trans hr ⟨rfl, rfl, rfl⟩)

theorem prChunk_keeps (v : RdCtx) (bytes : List Byte) : Yields (prChunk v bytes) fun p => Keeps v p.2 := by
  refine (chunkLoop_keeps bytes.length _ bytes).bind fun u hu => yields_ok ?_
  unfold chunkEnd
  split <;> exact ⟨hu.sid, hu.setup, hu.tables⟩

theorem csSettle_keeps {v : RdCtx} (op : TimeOp) (a : Option Agent) {r : Run Micros} (h : Keeps v r.ctx) :
    Keeps v (csSettle op a r).2 := by
  cases r with
  | wait w u => exact ⟨h.sid, h.setup, h.tables⟩
  | done us u => cases a <;> exact ⟨h.sid, h.setup, h.tables⟩

theorem parserSettle_keeps {v : RdCtx} (u : PacketUser) (ret : Ret) {r : Run Unit} (h : Keeps v r.ctx) :
    Keeps v (parserSettle u ret r).2 := by
  cases r <;> exact ⟨h.sid, h.setup, h.tables⟩

end Sys2Proof.Machine
end

section
/-! PROOFS. Every operation of a stream as what it makes of its view, and the frames that follow: no other stream is changed or
seen, and only `PR.CONFIGURE` and `BD.CALIBRATE` write a stream's configuration and tables (R20, R30, R39 to R41, R255). -/

namespace Sys2Proof.Machine

/-! ### An operation of a stream by its view -/

/-- What an operation of a stream comes to: it stops, is held, or leaves its view with a value. -/
inductive Effect where
  | fault (e : Fault)
  | refused (r : Refusal)
  | holds (j : Instr)
  | leaves (r : Ret) (v : RdCtx)

/-- The effect of a computation on the view. -/
def Effect.ofResult : Except Fault (Ret × RdCtx) → Effect
  | .error e => .fault e
  | .ok (r, v) => .leaves r v

/-- What an effect makes of the state. -/
def Effect.outcome (s : State) : Effect → Outcome
  | .fault e => .fault e
  | .refused r => .refused r
  | .holds j => .next (s.hold j)
  | .leaves r v => .next (s.leaves r v)

/-- The operation may write the configuration of its stream: it is `PR.CONFIGURE`. -/
def configures : Instr → Bool
  | .prConfigure _ _ _ => true
  | _ => false

/-- The operation may write the calibration and the tables of its stream: it is `BD.CALIBRATE`. -/
def calibrates : Instr → Bool
  | .bdCalibrate _ _ _ _ _ => true
  | _ => false

theorem configures_eq_true {i : Instr} (h : configures i = true) : ∃ a sid c, i = .prConfigure a sid c := by
  cases i <;> cases h
  exact ⟨_, _, _, rfl⟩

theorem calibrates_eq_true {i : Instr} (h : calibrates i = true) : ∃ a sid cal mn mx, i = .bdCalibrate a sid cal mn mx := by
  cases i <;> cases h
  exact ⟨_, _, _, _, _, rfl⟩

/-- What an operation leaves of its view: the stream's configuration but for `PR.CONFIGURE` in `AwaitingConfiguration`, the
tables but for `BD.CALIBRATE` (R30, R39 to R41). -/
structure Touches (i : Instr) (v u : RdCtx) : Prop where
  sid : u.sid = v.sid
  setup : configures i = false ∨ v.st.pstate ≠ .awaitingConfiguration → u.st.setup = v.st.setup
  tables : calibrates i = false → u.st.tables = v.st.tables

theorem Keeps.touches {v u : RdCtx} (h : Keeps v u) (i : Instr) : Touches i v u :=
  ⟨h.sid, fun _ => h.setup, fun _ => h.tables⟩

/-- If the effect leaves a view, the operation has touched no more of it than it may. -/
def Effect.Touching (i : Instr) (v : RdCtx) (e : Effect) : Prop := ∀ r u, e = .leaves r u → Touches i v u

theorem touching_refused (i : Instr) (v : RdCtx) (r : Refusal) : Effect.Touching i v (.refused r) := by
  rintro _ _ ⟨⟩

theorem touching_holds (i : Instr) (v : RdCtx) (j : Instr) : Effect.Touching i v (.holds j) := by
  rintro _ _ ⟨⟩

theorem touching_fault (i : Instr) (v : RdCtx) (e : Fault) : Effect.Touching i v (.fault e) := by
  rintro _ _ ⟨⟩

theorem touching_leaves {i : Instr} {v u : RdCtx} {r : Ret} (h : Touches i v u) : Effect.Touching i v (.leaves r u) := by
  rintro _ _ ⟨⟩
  exact h

theorem touching_ofResult {i : Instr} {v : RdCtx} {x : Except Fault (Ret × RdCtx)} (h : Yields x fun p => Touches i v p.2) :
    (Effect.ofResult x).Touching i v := by
  cases x with
  | error e => exact touching_fault i v e
  | ok p => exact touching_leaves (h p rfl)

/-- The operation `F` acts on stream `sid` alone: without the stream it is refused; with it, what it comes to is a function of
its view and of `CAP_VALID`. -/
structure ActsOn (i : Instr) (sid : Nat) (F : State → Outcome) : Prop where
  missing : ∀ s, s.streams[sid]? = none → ∃ r, F s = .refused r
  present : ∃ E : Bool → RdCtx → Effect, (∀ b v, (E b v).Touching i v) ∧
    ∀ s st, s.streams[sid]? = some st → F s = (E s.capValid (s.ctx sid st)).outcome s

section ActsOn

variable {i : Instr} {sid : Nat}

theorem actsOn_refused (r : Refusal) : ActsOn i sid fun _ => .refused r :=
  ⟨fun _ _ => ⟨r, rfl⟩, fun _ _ => .refused r, fun _ v => touching_refused i v r, fun _ _ _ => rfl⟩

/-- A test of the operands alone comes first. -/
theorem actsOn_unless {p : Prop} [Decidable p] {r : Refusal} {F : State → Outcome} (h : ActsOn i sid F) :
    ActsOn i sid fun s => if p then .refused r else F s := by
  by_cases hp : p
  · simpa only [if_pos hp] using actsOn_refused r
  · simpa only [if_neg hp] using h

theorem finish_eq_outcome (s : State) (x : Except Fault (Ret × RdCtx)) : s.finish x = (Effect.ofResult x).outcome s := by
  cases x <;> rfl

/-- An internal operation whose body is a function of the view. -/
theorem actsOn_onStream {f : RdCtx → Except Fault (Ret × RdCtx)} (h : ∀ v, Yields (f v) fun p => Keeps v p.2) :
    ActsOn i sid fun s => s.onStream sid f where
  missing s hs := ⟨_, by rw [State.onStream, hs]⟩
  present := ⟨fun _ v => .ofResult (f v), fun _ v => touching_ofResult ((h v).mono fun _ hp => hp.touches i),
    fun s st hs => by rw [onStream_eq_finish hs, finish_eq_outcome]⟩

/-- An operation of the reader agent, its body a function of the view. -/
theorem actsOn_onReader {F : State → Outcome} (j : RdCtx → Instr) (waits : Stream → Bool)
    {f : RdCtx → Except Fault (Ret × RdCtx)} (h : ∀ v, Yields (f v) fun p => Keeps v p.2)
    (hmissing : ∀ s, s.streams[sid]? = none → ∃ r, F s = .refused r)
    (hF : ∀ s st, s.streams[sid]? = some st →
      F s = if waits st then .next (s.hold (j (s.ctx sid st))) else s.finish (f (s.ctx sid st))) : ActsOn i sid F where
  missing := hmissing
  present := by
    refine ⟨fun _ v => if waits v.st then .holds (j v) else .ofResult (f v), fun _ v => ?_, fun s st hs => ?_⟩
    · dsimp only
      split
      · exact touching_holds i v _
      · exact touching_ofResult ((h v).mono fun _ hp => hp.touches i)
    · rw [hF s st hs, finish_eq_outcome]
      by_cases hw : waits st = true <;> simp only [State.ctx_st, hw] <;> rfl

theorem onReader_missing {s : State} {j : Instr} {waits : Stream → Bool} {f : RdCtx → Except Fault (Ret × RdCtx)}
    (hs : s.streams[sid]? = none) : ∃ r, s.onReader j sid waits f = .refused r := ⟨_, by rw [State.onReader, hs]⟩

theorem onReader_eq {s : State} {st : Stream} (hs : s.streams[sid]? = some st) (j : Instr) (waits : Stream → Bool)
    (f : RdCtx → Except Fault (Ret × RdCtx)) : s.onReader j sid waits f =
      if waits st then .next (s.hold j) else s.finish (f (s.ctx sid st)) := by
  simp only [State.onReader, hs, onStream_eq_finish hs]

theorem actsOn_reader {j : Instr} {waits : Stream → Bool} {f : RdCtx → Except Fault (Ret × RdCtx)}
    (h : ∀ v, Yields (f v) fun p => Keeps v p.2) : ActsOn i sid fun s => s.onReader j sid waits f :=
  actsOn_onReader (fun _ => j) waits h (fun _ hs => onReader_missing hs) fun _ _ hs => onReader_eq hs j waits f

/-- A time conversion, its operand a function of the configuration. -/
theorem actsOn_onClock (j : Instr) (op : Cfg → TimeOp) (a : Option Agent) {f : TimeOp → RdCtx → Except Fault (Run Micros)}
    (h : ∀ op v, YieldsConverted v (f op v)) : ActsOn i sid fun s => s.onClock j sid (op s.cfg) a (f (op s.cfg)) :=
  actsOn_onReader (fun _ => j) Stream.inJob (f := fun v => settled (op v.cfg) a (f (op v.cfg) v))
    (fun v => (h (op v.cfg) v).bind fun _ hr => yields_ok (csSettle_keeps _ a hr.keeps)) (fun _ hs => onReader_missing hs)
    fun _ _ hs => onReader_eq hs _ _ _

/-- A host operation of the stream: the agent is tested, the lock taken, the result put out (R75, R287). -/
theorem actsOn_onHost (j : Instr) (allowed : Cfg → Bool) (a : Agent) {f : Bool → RdCtx → Except Fault (Ret × RdCtx)}
    (h : ∀ b v, Yields (f b v) fun p => Touches i v p.2) :
    ActsOn i sid fun s => s.onHost j (allowed s.cfg) a sid (f s.capValid) where
  missing s hs := by
    cases ha : allowed s.cfg <;> exact ⟨_, by simp [State.onHost, hs]; rfl⟩
  present := by
    refine ⟨fun b v => if !allowed v.cfg then .refused .wrongAgent else if v.st.locked then .holds j
      else match f b (v.lock a) with
        | .error e => .fault e
        | .ok (r, u) => .leaves r (u.unlock.emit (.result a r)), fun b v => ?_, fun s st hs => ?_⟩
    · dsimp only
      split
      · exact touching_refused i v _
      split
      · exact touching_holds i v _
      split
      · exact touching_fault i v _
      · rename_i r u hf
        have ht := h b (v.lock a) _ hf
        exact touching_leaves ⟨ht.sid, ht.setup, ht.tables⟩
    · by_cases ha : allowed s.cfg = true
      · by_cases hl : st.locked = true
        · simp [State.onHost, hs, ha, hl, Effect.outcome]
        · simp only [State.onHost, hs, ha, hl, State.ctx_cfg, State.ctx_st]
          cases f s.capValid ((s.ctx sid st).lock a) <;> rfl
      · simp [State.onHost, ha, Effect.outcome]

/-- A host operation of the `HOST` row. -/
theorem actsOn_byHost {j : Instr} {a : Agent} {f : RdCtx → Except Fault (Ret × RdCtx)}
    (h : ∀ v, Yields (f v) fun p => Touches i v p.2) :
    ActsOn i sid fun s => s.onHost j (decide (a = .host)) a sid f :=
  actsOn_onHost j (fun _ => decide (a = .host)) a fun _ => h

/-- A per-state operation of the parser on the rest of a chunk. -/
theorem actsOn_fromPos (bytes : List Byte) (pos : Nat) {f : RdCtx → List Byte → Except Fault (Nat × RdCtx)}
    (h : ∀ v rest, Yields (f v rest) fun p => Keeps v p.2) : ActsOn i sid fun s => fromPos sid bytes pos s f :=
  actsOn_unless (actsOn_onStream fun v => (h v _).bind fun _ hp => yields_ok hp)

/-- A chunk whose bytes are a function of the view. -/
theorem actsOn_chunk {F : State → Outcome} (bytes : RdCtx → List Byte)
    (hmissing : ∀ s, s.streams[sid]? = none → ∃ r, F s = .refused r)
    (hF : ∀ s st, s.streams[sid]? = some st → F s = chunkAt sid (bytes (s.ctx sid st)) s) : ActsOn i sid F :=
  actsOn_onReader (fun v => .prChunk sid (bytes v)) (fun st => st.locked || st.inJob) (f := fun v => prChunk v (bytes v))
    (fun v => prChunk_keeps v _) hmissing fun s st hs => by rw [hF s st hs, chunkAt, onReader_eq hs]

/-- A packet header that arrives as one chunk. -/
theorem actsOn_headerAt (type : Stream → Half) (seq size : Half) (ts : Tick) :
    ActsOn i sid (headerAt sid type seq size ts) :=
  actsOn_chunk (fun v => headerBytes v.cap.magicD2H (type v.st) seq size ts)
    (fun s hs => ⟨_, by simp only [headerAt, hs]; rfl⟩) fun s st hs => by simp only [headerAt, hs]; rfl

theorem keeps_of_frames {v : RdCtx} {x : Except Fault RdCtx} (r : Ret) (h : Yields x (Frames v)) :
    Yields (x >>= fun u => .ok (r, u)) fun p => Keeps v p.2 :=
  h.bind fun _ hu => yields_ok hu.keeps

end ActsOn

/-! ### Each operation -/

theorem prConfigure_touches (a : Agent) (sid : Nat) (v : RdCtx) (c : StreamConfig) :
    Touches (.prConfigure a sid c) v (prConfigure v c).2 := by
  unfold prConfigure
  split
  case isTrue h =>
    have hp : v.st.pstate = .awaitingConfiguration := by
      simp only [Bool.and_eq_true, decide_eq_true_eq] at h
      exact h.1
    exact ⟨rfl, fun hn => absurd hp (hn.resolve_left nofun), fun _ => rfl⟩
  case isFalse => exact (Keeps.refl v).touches _

theorem bdCalibrate_touches (a : Agent) (sid : Nat) (v : RdCtx) (cal : CalRecord) (mn mx : Half) :
    Touches (.bdCalibrate a sid cal mn mx) v (bdCalibrate v cal mn mx) := ⟨rfl, fun _ => rfl, nofun⟩

theorem prArm_keeps (b : Bool) (v : RdCtx) : Keeps v (prArm b v).2 := by
  unfold prArm
  split
  · exact ⟨rfl, rfl, rfl⟩
  · exact .refl v

theorem prStop_keeps (v : RdCtx) : Keeps v (prStop v) := ⟨rfl, rfl, rfl⟩

theorem bdUnpack_keeps (v : RdCtx) (input : List Byte) : Yields (bdUnpack v input) fun p => Keeps v p.2 := by
  unfold bdUnpack
  split
  · exact yields_ok (.refl v)
  · split
    · exact yields_error _
    · exact (yields_trivial _).bind fun _ _ => yields_ok (.refl v)

theorem prPktstart_keeps (v : RdCtx) : Yields (prPktstart v) fun r => Keeps v r.ctx :=
  (yields_trivial _).bind fun h _ => packetStart_keeps v h

theorem execPrConfigure_actsOn (a : Agent) (sid : Nat) (c : StreamConfig) :
    ActsOn (.prConfigure a sid c) sid (execPrConfigure a sid c) := by
  have hrun : ActsOn (.prConfigure a sid c) sid fun s =>
      s.onHost (.prConfigure a sid c) (decide (a = .host)) a sid fun v => .ok (prConfigure v c) :=
    actsOn_byHost fun v => yields_ok (prConfigure_touches a sid v c)
  obtain ⟨E, hE, hF⟩ := hrun.present
  refine ⟨fun s hs => ?_, fun b v => if codecOutOfDomain v.cfg c.codec then .refused .illegalConfiguration else E b v,
    fun b v => ?_, fun s st hs => ?_⟩
  · unfold execPrConfigure
    split
    · exact ⟨_, rfl⟩
    · exact hrun.missing s hs
  · dsimp only
    split
    · exact touching_refused _ v _
    · exact hE b v
  · by_cases hc : codecOutOfDomain s.cfg c.codec = true
    · simp [execPrConfigure, hc, Effect.outcome]
    · simpa [execPrConfigure, hc] using hF s st hs

theorem execPrHdr_actsOn (i : Instr) (sid : Nat) (bytes : List Byte) (pos : Nat) :
    ActsOn i sid (execPrHdr sid bytes pos) :=
  actsOn_unless (actsOn_reader fun v => (prHdr_keeps v _).bind fun _ hp => yields_ok (parserSettle_keeps _ _ hp))

theorem execPrPktstart_actsOn (i : Instr) (sid : Nat) : ActsOn i sid (execPrPktstart sid) :=
  actsOn_reader fun v => (prPktstart_keeps v).bind fun _ hr => yields_ok (parserSettle_keeps _ _ hr)

theorem execPrTime_actsOn (i : Instr) (sid : Nat) : ActsOn i sid (execPrTime sid) :=
  actsOn_reader fun v => (yields_trivial _).bind fun h _ =>
    (prTime_keeps v h).bind fun _ hr => yields_ok (parserSettle_keeps _ _ hr)

theorem execPrSof_actsOn (i : Instr) (sid : Nat) : ActsOn i sid (execPrSof sid) :=
  actsOn_onStream fun v => by
    split
    · exact (yields_trivial _).bind fun h _ => yields_ok (prSof_frames v h).keeps
    · exact yields_ok (prFrameReset_frames v).keeps

theorem execBdFeed_actsOn (i : Instr) (sid : Nat) (bytes : List Byte) : ActsOn i sid (execBdFeed sid bytes) where
  missing s hs := ⟨_, by simp only [execBdFeed, hs]; rfl⟩
  present := by
    refine ⟨fun _ v => match elemSpec v.cfg v.st.conf.codec with
      | none => .refused .noElementCodec
      | some (w, n) => .ofResult (bdFeed v w n bytes >>= fun u => .ok (.none, u)), fun _ v => ?_, fun s st hs => ?_⟩
    · dsimp only
      split
      · exact touching_refused i v _
      · exact touching_ofResult ((keeps_of_frames _ (bdFeed_frames v _ _ bytes)).mono fun _ hp => hp.touches i)
    · simp only [execBdFeed, hs, State.ctx_cfg, State.ctx_st]
      cases elemSpec s.cfg st.conf.codec with
      | none => rfl
      | some p => simp only [onStream_eq_finish hs, finish_eq_outcome]

theorem execBdElement_actsOn (i : Instr) (sid : Nat) (elem : List Byte) (mode : ElemMode) :
    ActsOn i sid (execBdElement sid elem mode) where
  missing s hs := ⟨_, by simp only [execBdElement, hs]; rfl⟩
  present := by
    refine ⟨fun _ v => match elemSpec v.cfg v.st.conf.codec with
      | none => .refused .noElementCodec
      | some (w, n) =>
        if elem.length ≠ n then .refused (.illFormed .notAnElement)
        else match mode with
          | .list => .ofResult (bdElementList v w n elem >>= fun vs => .ok (.samples vs, v))
          | .out => .ofResult (bdElementOut v w n elem >>= fun u => .ok (.none, u)), fun _ v => ?_, fun s st hs => ?_⟩
    · dsimp only
      split
      · exact touching_refused i v _
      split
      · exact touching_refused i v _
      cases mode with
      | list => exact touching_ofResult ((yields_trivial _).bind fun _ _ => yields_ok ((Keeps.refl v).touches i))
      | out =>
        exact touching_ofResult ((keeps_of_frames _ (bdElementOut_frames v _ _ elem)).mono fun _ hp => hp.touches i)
    · simp only [execBdElement, hs, State.ctx_cfg, State.ctx_st]
      cases elemSpec s.cfg st.conf.codec with
      | none => rfl
      | some p =>
        dsimp only
        split
        · rfl
        · cases mode <;> simp only [onStream_eq_finish hs, finish_eq_outcome]

/-- Every operation of a stream acts on that stream alone, and writes its configuration and tables only where it may. -/
theorem exec_actsOn (i : Instr) (sid : Nat) (h : i.stream? = some sid) : ActsOn i sid (exec i) := by
  cases i <;> cases h
  case prConfigure a c => exact execPrConfigure_actsOn a sid c
  case prArm a =>
    exact (actsOn_onHost _ (fun _ => decide (a = .host)) a fun b v => yields_ok ((prArm_keeps b v).touches _) :
      ActsOn _ sid (execPrArm a sid))
  case prStop a =>
    exact (actsOn_byHost fun v => yields_ok ((prStop_keeps v).touches _) :
      ActsOn _ sid (execPrStop a sid))
  case bdCalibrate a cal mn mx =>
    exact (actsOn_byHost fun v => yields_ok (bdCalibrate_touches a sid v cal mn mx) :
      ActsOn _ sid (execBdCalibrate a sid cal mn mx))
  case bdReadtable a which idx =>
    exact (actsOn_byHost fun v => (yields_trivial _).bind fun _ _ => yields_ok ((Keeps.refl v).touches _) :
      ActsOn _ sid (execBdReadtable a sid which idx))
  case bdUnpack a input =>
    exact (actsOn_onHost _ (agentExists · a) a fun _ v => (bdUnpack_keeps v input).mono fun _ hp => hp.touches _ :
      ActsOn _ sid (execBdUnpack a sid input))
  case csTohost a tick =>
    exact (actsOn_unless (actsOn_onClock _ (fun cfg => .tohost (counterTick cfg tick)) _ csBegin_converts) :
      ActsOn _ sid (execCsTohost a sid tick))
  case csHostonly a =>
    exact (actsOn_unless (actsOn_onClock _ (fun _ => .hostonly) _ csBegin_converts) :
      ActsOn _ sid (execCsHostonly a sid))
  case prChunk bytes => exact actsOn_chunk (fun _ => bytes) (fun _ hs => onReader_missing hs) fun _ _ _ => rfl
  case pktSof seq size ts => exact actsOn_headerAt _ seq size ts
  case pktEof seq size ts => exact actsOn_headerAt _ seq size ts
  case pktData type seq size ts => exact actsOn_headerAt _ seq size ts
  case prDiscard bytes pos =>
    exact (actsOn_fromPos bytes pos fun v _ => yields_ok (.refl v) :
      ActsOn _ sid (execPrDiscard sid bytes pos))
  case prIgnore bytes pos =>
    exact (actsOn_fromPos bytes pos fun v rest => yields_ok (prIgnore_keeps v rest) :
      ActsOn _ sid (execPrIgnore sid bytes pos))
  case prSeek bytes pos =>
    exact (actsOn_fromPos bytes pos fun v _ => yields_ok (prSeek_keeps v _) :
      ActsOn _ sid (execPrSeek sid bytes pos))
  case prHdr bytes pos => exact execPrHdr_actsOn _ sid bytes pos
  case prData bytes pos =>
    exact (actsOn_fromPos bytes pos prData_keeps :
      ActsOn _ sid (execPrData sid bytes pos))
  case prPktend =>
    exact (actsOn_onStream fun v => (prPktend_keeps v).bind fun _ hu => yields_ok hu :
      ActsOn _ sid (execPrPktend sid))
  case prPktstart => exact execPrPktstart_actsOn _ sid
  case prLosschk =>
    exact (actsOn_onStream fun v => (yields_trivial _).bind fun h _ => yields_ok (prLosschk_frames v h).keeps :
      ActsOn _ sid (execPrLosschk sid))
  case prSof => exact execPrSof_actsOn _ sid
  case prFramereset =>
    exact (actsOn_onStream fun v => yields_ok (prFrameReset_frames v).keeps :
      ActsOn _ sid (execPrFramereset sid))
  case prTime => exact execPrTime_actsOn _ sid
  case prPiece bytes off =>
    exact (actsOn_onStream fun v => keeps_of_frames _ (prPiece_frames v bytes) :
      ActsOn _ sid (execPrPiece sid bytes off))
  case prEof =>
    exact (actsOn_onStream fun v => keeps_of_frames _ (prEof_frames v) :
      ActsOn _ sid (execPrEof sid))
  case prPad k =>
    exact (actsOn_onStream fun v => yields_ok (prPad_frames v _).keeps :
      ActsOn _ sid (execPrPad sid k))
  case prOverflow =>
    exact (actsOn_onStream fun v => yields_ok (prOverflow_frames v).keeps :
      ActsOn _ sid (execPrOverflow sid))
  case prPublish =>
    exact (actsOn_onStream fun v => keeps_of_frames _ (prPublish_frames v) :
      ActsOn _ sid (execPrPublish sid))
  case csEstablish t =>
    exact (actsOn_onClock _ (fun cfg => .establish (counterTick cfg t.tick)) _ csBegin_converts :
      ActsOn _ t.sid (execCsEstablish t))
  case csInit tick =>
    exact (actsOn_onClock _ (fun cfg => .init (counterTick cfg tick)) _ csBegin_converts :
      ActsOn _ sid (execCsInit sid tick))
  case csAdvance tick =>
    exact (actsOn_onStream fun v => (csAdvance_converts v _).bind fun _ hp => yields_ok hp.keeps :
      ActsOn _ sid (execCsAdvance sid tick))
  case csResync tick =>
    exact (actsOn_onClock _ (fun cfg => .init (counterTick cfg tick)) _ csResync_converts :
      ActsOn _ sid (execCsResync sid tick))
  case bdFeed bytes => exact execBdFeed_actsOn _ sid bytes
  case bdElement elem mode => exact execBdElement_actsOn _ sid elem mode
  case bdMap code =>
    exact (actsOn_onStream fun v => (yields_trivial _).bind fun _ _ => yields_ok (.refl v) :
      ActsOn _ sid (execBdMap sid code))

/-- All an operation of a stream can come to: it is held, or leaves a view of its stream, found from the view and `CAP_VALID`
alone. -/
theorem exec_stream_cases {i : Instr} {sid : Nat} {s t : State} (h : i.stream? = some sid) (ht : exec i s = .next t) :
    ∃ st, s.streams[sid]? = some st ∧
      ((∃ j, t = s.hold j ∧ ∀ others : List Stream, others[sid]? = some st →
          exec i { s with streams := others } = .next (State.hold { s with streams := others } j)) ∨
        ∃ r v, t = s.leaves r v ∧ Touches i (s.ctx sid st) v ∧ ∀ others : List Stream, others[sid]? = some st →
          exec i { s with streams := others } = .next (State.leaves { s with streams := others } r v)) := by
  obtain ⟨hmissing, E, htouch, hE⟩ := exec_actsOn i sid h
  cases hs : s.streams[sid]? with
  | none =>
    obtain ⟨r, hr⟩ := hmissing s hs
    rw [hr] at ht
    cases ht
  | some st =>
    have heff := hE s st hs
    rw [ht] at heff
    have hothers (others : List Stream) (ho : others[sid]? = some st) :
        exec i { s with streams := others } =
          (E s.capValid (s.ctx sid st)).outcome { s with streams := others } := hE { s with streams := others } st ho
    cases he : E s.capValid (s.ctx sid st) with
    | fault e => rw [he] at heff; cases heff
    | refused r => rw [he] at heff; cases heff
    | holds j =>
      rw [he] at heff hothers
      cases heff
      exact ⟨st, rfl, .inl ⟨j, rfl, hothers⟩⟩
    | leaves r v =>
      rw [he] at heff hothers
      cases heff
      exact ⟨st, rfl, .inr ⟨r, v, rfl, htouch _ _ _ _ he, hothers⟩⟩

/-! ### Operations that are of no stream -/

/-- The next state of an outcome, where it has one, has the records of the state before, `SY_FIRST` apart. -/
def StreamsStay (s : State) (o : Outcome) : Prop :=
  ∀ t, o = .next t → t.streams = s.streams ∨ t.streams = s.streams.map syForget

section StreamsStay

variable {s : State}

theorem streamsStay_next {t : State} (h : t.streams = s.streams) : StreamsStay s (.next t) := by
  rintro _ ⟨⟩
  exact .inl h

theorem streamsStay_refused (r : Refusal) : StreamsStay s (.refused r) := by
  rintro _ ⟨⟩

theorem settle_streamsStay {s' : State} (h : s'.streams = s.streams) (out : Option ExecResult × CtCtx) :
    StreamsStay s (s'.settle out) := by
  obtain ⟨r, c⟩ := out
  cases r with
  | none =>
    rw [State.settle]
    split
    · exact streamsStay_refused _
    · exact streamsStay_next h
  | some r => exact streamsStay_next h

theorem beginExchange_streamsStay (a : Agent) (op : Half) (payload : List Byte) :
    StreamsStay s (s.beginExchange a op payload) := by
  unfold State.beginExchange
  split
  · exact streamsStay_refused _
  · exact settle_streamsStay (by exact rfl) _

theorem resumeExchange_streamsStay {s' : State} (h : s'.streams = s.streams) : StreamsStay s s'.resumeExchange := by
  unfold State.resumeExchange
  split
  · exact streamsStay_next h
  · exact settle_streamsStay h _

theorem replyAt_streamsStay (size op id status : Half) (data : List Byte) :
    StreamsStay s (replyAt size op id status data s) := by
  unfold replyAt State.receive
  dsimp only
  split
  · exact resumeExchange_streamsStay rfl
  · exact streamsStay_next rfl

theorem onExchange_streamsStay (f : CtCtx → Ret × CtCtx) : StreamsStay s (s.onExchange f) := by
  unfold State.onExchange
  split
  · exact streamsStay_refused _
  · dsimp only
    split
    · exact streamsStay_refused _
    · exact streamsStay_next rfl

/-- Connecting forgets the synchronizers' history, or refuses (R121). -/
theorem ctConnect_streams (v : Version) (table : List CapRow) :
    (ctConnect s v table).2.streams = s.streams ∨ (ctConnect s v table).2.streams = s.streams.map syForget := by
  unfold ctConnect
  split
  · exact .inl rfl
  · exact .inr rfl

theorem ctDisconnect_streams :
    (ctDisconnect s).2.streams = s.streams ∨ (ctDisconnect s).2.streams = s.streams.map syForget := by
  unfold ctDisconnect
  split
  · exact .inr rfl
  · exact .inl rfl

theorem execCtConnect_streamsStay (a : Agent) (v : Version) (table : List CapRow) :
    StreamsStay s (execCtConnect a v table s) := by
  unfold execCtConnect
  split
  · exact streamsStay_refused _
  · rintro _ ⟨⟩
    exact ctConnect_streams v table

theorem execCtDisconnect_streamsStay (a : Agent) : StreamsStay s (execCtDisconnect a s) := by
  unfold execCtDisconnect
  split
  · exact streamsStay_refused _
  · rintro _ ⟨⟩
    exact ctDisconnect_streams

theorem execCtExec_streamsStay (a : Agent) (op : Half) (payload : List Byte) :
    StreamsStay s (execCtExec a op payload s) := by
  unfold execCtExec
  split
  · exact streamsStay_refused _
  split
  · exact streamsStay_next rfl
  split
  · exact streamsStay_refused _
  split
  · exact streamsStay_next rfl
  · exact beginExchange_streamsStay a op payload

theorem execCtFrame_streamsStay (op id : Half) (payload : List Byte) : StreamsStay s (execCtFrame op id payload s) := by
  unfold execCtFrame
  split
  · exact streamsStay_refused _
  · exact streamsStay_next rfl

theorem execCtSendr_streamsStay (frame : List Byte) : StreamsStay s (execCtSendr frame s) := by
  unfold execCtSendr
  split
  · exact streamsStay_refused _
  · exact onExchange_streamsStay _

theorem execCtStatus_streamsStay (body : List Byte) : StreamsStay s (execCtStatus body s) := by
  unfold execCtStatus
  split
  · exact streamsStay_refused _
  · exact streamsStay_next rfl

/-- An operation of the command transport leaves every record but for `SY_FIRST` (R78, R298). -/
theorem exec_streamsStay {i : Instr} (h : i.stream? = none) (hr : i ≠ .hwReset) : StreamsStay s (exec i s) := by
  cases i <;> cases h
  case ctConnect a v table => exact execCtConnect_streamsStay a v table
  case ctDisconnect a => exact execCtDisconnect_streamsStay a
  case ctExec a op payload => exact execCtExec_streamsStay a op payload
  case hwReset => exact absurd rfl hr
  case ctFrame op id payload => exact execCtFrame_streamsStay op id payload
  case rspAck size op id data => exact replyAt_streamsStay size op id _ data
  case rspNackCrc size op id data => exact replyAt_streamsStay size op id _ data
  case rspNackBadParams size op id data => exact replyAt_streamsStay size op id _ data
  case rspNackFileNotFound size op id data => exact replyAt_streamsStay size op id _ data
  case rspNackNotReady size op id data => exact replyAt_streamsStay size op id _ data
  case rspNackOverflow size op id data => exact replyAt_streamsStay size op id _ data
  case rspNackFsLocked size op id data => exact replyAt_streamsStay size op id _ data
  case rspNackOther size op id status data => exact replyAt_streamsStay size op id status data
  case ctSendr frame => exact execCtSendr_streamsStay frame
  case ctRecvr => exact (onExchange_streamsStay _ : StreamsStay s (execCtRecvr s))
  case ctAttempt => exact (onExchange_streamsStay _ : StreamsStay s (execCtAttempt s))
  case ctScan chunk => exact streamsStay_next rfl
  case ctMatch hdr => exact (onExchange_streamsStay _ : StreamsStay s (execCtMatch hdr s))
  case ctGather chunk hdr => exact (onExchange_streamsStay _ : StreamsStay s (execCtGather chunk hdr s))
  case ctStatus body => exact execCtStatus_streamsStay body

end StreamsStay

/-- What an operation other than a reset leaves of any stream's configuration and tables. -/
theorem exec_keeps_configuration {i : Instr} {s t : State} {k : Nat} {st st' : Stream} (hr : i ≠ .hwReset)
    (ht : exec i s = .next t) (hs : s.streams[k]? = some st) (hs' : t.streams[k]? = some st') :
    (configures i = false ∨ i.stream? ≠ some k ∨ st.pstate ≠ .awaitingConfiguration → st'.setup = st.setup) ∧
      (calibrates i = false ∨ i.stream? ≠ some k → st'.tables = st.tables) := by
  cases hi : i.stream? with
  | none =>
    obtain h | h := exec_streamsStay hi hr t ht <;> rw [h] at hs'
    · obtain rfl : st = st' := by simpa [hs] using hs'
      exact ⟨fun _ => rfl, fun _ => rfl⟩
    · obtain rfl : syForget st = st' := by simpa [hs] using hs'
      exact ⟨fun _ => rfl, fun _ => rfl⟩
  | some sid =>
    obtain ⟨st₀, hs₀, ⟨j, rfl, -⟩ | ⟨r, v, rfl, htouch, -⟩⟩ := exec_stream_cases hi ht
    · obtain rfl : st = st' := by simpa [hs] using hs'
      exact ⟨fun _ => rfl, fun _ => rfl⟩
    · by_cases hk : sid = k
      · subst hk
        obtain rfl : st₀ = st := by simpa [hs₀] using hs
        obtain rfl : v.st = st' := by simpa [leaves_stream hs₀ htouch.sid] using hs'
        exact ⟨fun h => htouch.setup (h.imp_right fun h => h.resolve_left (not_not.mpr rfl)),
          fun h => htouch.tables (h.resolve_right (not_not.mpr rfl))⟩
      · have hst : (s.leaves r v).streams[k]? = some st := by
          simp [State.leaves, htouch.sid, List.getElem?_set_ne hk, hs]
        obtain rfl : st = st' := by simpa [hst] using hs'
        exact ⟨fun _ => rfl, fun _ => rfl⟩

end Sys2Proof.Machine

namespace Sys2Proof.Settled

open Machine

/-- Settles O12: what an operation comes to is a function of its view, and no other record is in the view. -/
theorem streamNoninterference : Obligations.StreamNoninterference := by
  intro i sid s t others hi ho ht
  obtain ⟨st, hs, ⟨j, rfl, hu⟩ | ⟨r, v, rfl, htouch, hu⟩⟩ := exec_stream_cases hi ht
  · exact ⟨_, hu others (ho.trans hs), ho, rfl, rfl, rfl, rfl, rfl⟩
  · have hown := leaves_stream (s := { s with streams := others }) (ho.trans hs) htouch.sid r
    exact ⟨_, hu others (ho.trans hs), hown.trans (leaves_stream hs htouch.sid r).symm, rfl, rfl, rfl, rfl, rfl⟩

/-- Settles O11: a held operation changes what is held, any other leaves its view. -/
theorem streamFrame : Obligations.StreamFrame := by
  intro i sid s t hi ht
  obtain ⟨st, hs, ⟨j, rfl, -⟩ | ⟨r, v, rfl, htouch, -⟩⟩ := exec_stream_cases hi ht
  · refine ⟨st, ?_⟩
    have hsame : s.streams.set sid st = s.streams := by
      obtain ⟨hlt, rfl⟩ := List.getElem?_eq_some_iff.mp hs
      exact List.set_getElem_self hlt
    rw [hsame]
    rfl
  · refine ⟨v.st, ?_⟩
    have hsid : v.sid = sid := htouch.sid
    rw [← hsid]
    rfl

/-- Settles O14: by the view an operation of a stream leaves, and by what the others leave of the records. -/
theorem configurationFrame : Obligations.ConfigurationFrame := by
  intro i s t k st st' hr ht hs hs'
  obtain ⟨hsetup, htables⟩ := exec_keeps_configuration hr ht hs hs'
  constructor
  · intro h
    have hsetup := hsetup <| by
      obtain h | h := h
      · cases hc : configures i with
        | false => exact .inl rfl
        | true =>
          obtain ⟨a, sid, c, rfl⟩ := configures_eq_true hc
          exact .inr (.inl fun hk => h a c (by cases hk; rfl))
      · exact .inr (.inr h)
    exact ⟨congrArg (·.1) hsetup, congrArg (·.2) hsetup⟩
  · intro h
    have htables := htables <| by
      cases hc : calibrates i with
      | false => exact .inl rfl
      | true =>
        obtain ⟨a, sid, cal, mn, mx, rfl⟩ := calibrates_eq_true hc
        exact .inr fun hk => h a cal mn mx (by cases hk; rfl)
    simpa [Stream.tables] using htables

end Sys2Proof.Settled
end

section
/-! PROOFS. Computations whose only fault is a value beyond 64 bits; and the frame actions: from sound frame registers they reach
sound ones, and read no cell that no rule has written (R21, R44 (d) to (h), R60, R180 to R187). -/

namespace Sys2Proof.Machine

/-! ### Computations that fault by the width alone -/

/-- A computation that yields a value with a property, or faults because a value is beyond 64 bits (U14). -/
def Sure {α : Type} (x : Except Fault α) (P : α → Prop) : Prop :=
  match x with
  | .ok a => P a
  | .error e => e = .outOf64Bits

section Sure

variable {α β : Type} {P Q : α → Prop} {R : β → Prop} {x : Except Fault α}

theorem sure_ok {a : α} (h : P a) : Sure (.ok a) P := h

theorem Sure.bind {f : α → Except Fault β} (hx : Sure x P) (hf : ∀ a, P a → Sure (f a) R) : Sure (x >>= f) R := by
  cases x with
  | error e => exact hx
  | ok a => exact hf a hx

theorem Sure.mono (hx : Sure x P) (h : ∀ a, P a → Q a) : Sure x Q := by
  cases x with
  | error e => exact hx
  | ok a => exact h a hx

theorem Sure.and (hx : Sure x P) (hy : Yields x Q) : Sure x fun a => P a ∧ Q a := by
  cases x with
  | error e => exact hx
  | ok a => exact ⟨hx, hy a rfl⟩

/-- A number that a 64-bit register takes is kept exactly (R142). -/
theorem sure_to64 (n : Int) : Sure (to64 n) fun r => (r.toNat : Int) = n := by
  obtain ⟨r, h, hr⟩ | h := to64_cases n <;> rw [h]
  · exact hr
  · rfl

end Sure

/-! ### Stores that hold what their counts say -/

/-- A store of the right count is a table of so many values. -/
theorem Holds.table {α : Type} {m : Cells α} {n : Nat} (h : Holds m n) : ∃ vs, m = tableCells 0 vs ∧ vs.length = n := by
  obtain ⟨hm, hl⟩ := holds_eq_table h
  exact ⟨m.map Prod.snd, hm, by simpa using hl⟩

/-- Appending at the count (R61). -/
theorem Holds.append {α : Type} {m : Cells α} {n : Nat} (h : Holds m n) (vs : List α) :
    Holds (writeCells m n vs) (n + vs.length) := by
  obtain ⟨us, rfl, rfl⟩ := h.table
  rw [writeCells_tableCells_zero, ← List.length_append]
  exact tableCells_holds _

/-- A cell below the count has a value. -/
theorem Holds.cell {α : Type} {m : Cells α} {n a : Nat} (h : Holds m n) (ha : a < n) : ∃ v, readCell m a = some v := by
  obtain ⟨us, rfl, rfl⟩ := h.table
  exact ⟨us[a], by simp [readCell_tableCells, List.getElem?_eq_getElem ha]⟩

/-- All cells below the count can be read. -/
theorem Holds.read {α : Type} {m : Cells α} {n : Nat} (h : Holds m n) (sp : Space) :
    ∃ vs, readCells sp m 0 n = .ok vs ∧ m = tableCells 0 vs ∧ vs.length = n := by
  obtain ⟨us, rfl, rfl⟩ := h.table
  exact ⟨us, readCells_tableCells sp us, rfl, rfl⟩

/-! ### The domain of the configuration -/

/-- The element sizes of a configuration in its domain (R9, R35). -/
theorem elementSizes_of_cfgLegal {c : Cfg} (h : cfgLegal c = true) :
    1 ≤ c.elemIn11 ∧ c.elemIn11 ≤ 24 ∧ 1 ≤ c.elemIn12 ∧ c.elemIn12 ≤ 24 := by
  simp only [cfgLegal, elementLegal, Bool.and_eq_true, decide_eq_true_eq] at h
  obtain ⟨⟨⟨-, ⟨⟨h1, h11⟩, h12⟩, h24⟩, -⟩, -⟩ := h
  omega

/-- The sample size of a configuration in its domain is even (R45). -/
theorem sampleSize_of_cfgLegal {c : Cfg} (h : cfgLegal c = true) : c.sampleBits / 8 % 2 = 0 := by
  simp only [cfgLegal, Bool.and_eq_true, decide_eq_true_eq] at h
  obtain ⟨⟨-, -, h16⟩, -⟩ := h
  omega

/-! ### The frame registers -/

/-- The codecs that pack samples (R45). -/
def unpacks : Codec → Bool
  | .pass => false
  | .unpack11 => true
  | .unpack12 => true
  | .xform => false

/-- Empty buffers are sound frame registers under any codec. -/
theorem frameInv_of_empty {cfg : Cfg} {st : Stream} (hc : cfgLegal cfg = true) (hout : st.out = [] ∧ st.outLen = 0)
    (hcont : st.cont = [] ∧ st.contLen = 0) (hdrop : st.drop = true → st.corrupt = true)
    (hfirst : st.lossFirst = true → st.lossMark = true) (hlast : st.lossLast = true → st.lossMark = true)
    (hstop : st.pstate = .awaitingConfiguration →
      st.trailPad = 0 ∧ st.corrupt = false ∧ st.drop = false ∧ st.lossMark = false) : FrameInv cfg st := by
  obtain ⟨h11, -, h12, -⟩ := elementSizes_of_cfgLegal hc
  obtain ⟨hout, hlen⟩ := hout
  obtain ⟨hcont, hclen⟩ := hcont
  have hz : WholeSamples cfg st := by simp [WholeSamples, hlen]
  refine ⟨by rw [hout, hlen]; rfl, by rw [hcont, hclen]; rfl, by simp [hlen], fun _ => hclen,
    fun _ => ⟨by rw [hclen]; exact h11, hz⟩, fun _ => ⟨by rw [hclen]; exact h12, hz⟩,
    fun h => ⟨hdrop h, hlen, hclen⟩, hfirst, hlast, fun h => ⟨hlen, hclen, hstop h⟩⟩

/-- Sound frame registers but for the continuation bytes, of an armed stream that does not drop: the frame of a stream in the
course of a write. -/
structure Filling (cfg : Cfg) (st : Stream) : Prop where
  armed : st.pstate ≠ .awaitingConfiguration
  out : Holds st.out st.outLen.toNat
  cap : st.outLen.toNat ≤ st.conf.outCap.toNat
  whole : unpacks st.conf.codec = true → WholeSamples cfg st
  keeps : st.drop = false
  first : st.lossFirst = true → st.lossMark = true
  last : st.lossLast = true → st.lossMark = true

theorem FrameInv.filling {cfg : Cfg} {st : Stream} (h : FrameInv cfg st) (ha : st.pstate ≠ .awaitingConfiguration)
    (hd : st.drop = false) : Filling cfg st := by
  obtain ⟨hout, -, hcap, -, h11, h12, -, hfirst, hlast, -⟩ := h
  refine ⟨ha, hout, hcap, fun hu => ?_, hd, hfirst, hlast⟩
  cases hcodec : st.conf.codec with
  | pass => rw [hcodec] at hu; cases hu
  | unpack11 => exact (h11 hcodec).2
  | unpack12 => exact (h12 hcodec).2
  | xform => rw [hcodec] at hu; cases hu

/-- The continuation bytes of a stream: fewer than an element, none where the codec packs none (R35, R44 (e)). -/
structure ContInv (cfg : Cfg) (st : Stream) : Prop where
  cont : Holds st.cont st.contLen.toNat
  pass : st.conf.codec = .pass → st.contLen = 0
  short11 : st.conf.codec = .unpack11 → st.contLen.toNat < cfg.elemIn11
  short12 : st.conf.codec = .unpack12 → st.contLen.toNat < cfg.elemIn12

theorem FrameInv.contInv {cfg : Cfg} {st : Stream} (h : FrameInv cfg st) : ContInv cfg st := by
  obtain ⟨-, hcont, -, hpass, h11, h12, -⟩ := h
  exact ⟨hcont, hpass, fun h => (h11 h).1, fun h => (h12 h).1⟩

theorem Filling.frameInv {cfg : Cfg} {st : Stream} (h : Filling cfg st) (hc : ContInv cfg st) : FrameInv cfg st :=
  ⟨h.out, hc.cont, h.cap, hc.pass, fun hu => ⟨hc.short11 hu, h.whole (by rw [hu]; rfl)⟩,
    fun hu => ⟨hc.short12 hu, h.whole (by rw [hu]; rfl)⟩, fun hd => absurd hd (by simp [h.keeps]), h.first, h.last,
    fun hp => absurd hp h.armed⟩

/-- What a write to `OUT` comes to: the bytes are in and the continuation bytes as they were, or the stream drops (R61,
R186). -/
def Filled (cfg : Cfg) (v u : RdCtx) : Prop :=
  (Filling cfg u.st ∧ u.st.cont = v.st.cont ∧ u.st.contLen = v.st.contLen) ∨ (u.st.drop = true ∧ FrameInv cfg u.st)

theorem Filled.frameInv {cfg : Cfg} {v u : RdCtx} (h : Filled cfg v u) (hf : Frames v u) (hc : ContInv cfg v.st) :
    FrameInv cfg u.st := by
  obtain ⟨h, hcont, hlen⟩ | ⟨-, h⟩ := h
  · have hcodec : u.st.conf = v.st.conf := by rw [hf.record]
    refine h.frameInv ⟨by rw [hcont, hlen]; exact hc.cont, ?_, ?_, ?_⟩ <;> rw [hcodec, hlen]
    · exact hc.pass
    · exact hc.short11
    · exact hc.short12
  · exact h

/-- A stream that overflows has sound frame registers (R186). -/
theorem overflowFlags_frameInv {cfg : Cfg} {st : Stream} (hc : cfgLegal cfg = true)
    (ha : st.pstate ≠ .awaitingConfiguration) (hfirst : st.lossFirst = true → st.lossMark = true)
    (hlast : st.lossLast = true → st.lossMark = true) : FrameInv cfg (overflowFlags st) :=
  frameInv_of_empty hc ⟨rfl, rfl⟩ ⟨rfl, rfl⟩ (fun _ => rfl) hfirst hlast fun h => absurd h ha

/-- A write of whole samples keeps the frame sound (R61, R186, R44 (g)). -/
theorem appendOut_filled {v : RdCtx} {bs : List Byte} (hc : cfgLegal v.cfg = true) (h : Filling v.cfg v.st)
    (hw : unpacks v.st.conf.codec = true → bs.length % 2 = 0 ∧ bs.length % (v.cfg.sampleBits / 8) = 0) :
    Filled v.cfg v (appendOut v bs) := by
  by_cases hfit : v.st.outLen.toNat + bs.length ≤ v.st.conf.outCap.toNat
  · have hlen : (BitVec.ofNat 32 (v.st.outLen.toNat + bs.length)).toNat = v.st.outLen.toNat + bs.length := by
      have := v.st.conf.outCap.isLt
      rw [BitVec.toNat_ofNat, Nat.mod_eq_of_lt (by omega)]
    rw [appendOut_fits hfit]
    refine .inl ⟨⟨h.armed, ?_, ?_, fun hu => ?_, h.keeps, h.first, h.last⟩, rfl, rfl⟩
    · show Holds _ (BitVec.ofNat 32 (v.st.outLen.toNat + bs.length)).toNat
      rw [hlen]
      exact h.out.append bs
    · show (BitVec.ofNat 32 (v.st.outLen.toNat + bs.length)).toNat ≤ _
      rw [hlen]
      exact hfit
    · obtain ⟨h2, hs⟩ := h.whole hu
      obtain ⟨hb2, hbs⟩ := hw hu
      rw [WholeSamples, hlen]
      exact ⟨by omega, by rw [Nat.add_mod, hs, hbs, Nat.add_zero, Nat.zero_mod]⟩
  · rw [appendOut_overflows (Nat.not_le.mp hfit)]
    exact .inr ⟨rfl, overflowFlags_frameInv hc h.armed h.first h.last⟩

/-- Samples are whole samples (R44 (g)). -/
theorem wholeSamples_mul {cfg : Cfg} (hc : cfgLegal cfg = true) (n : Nat) :
    cfg.sampleBits / 8 * n % 2 = 0 ∧ cfg.sampleBits / 8 * n % (cfg.sampleBits / 8) = 0 := by
  have h2 := sampleSize_of_cfgLegal hc
  exact ⟨by rw [Nat.mul_mod, h2, Nat.zero_mul, Nat.zero_mod], Nat.mul_mod_right _ _⟩

theorem flatten_replicate_length (k : Nat) (bs : List Byte) : (List.replicate k bs).flatten.length = bs.length * k := by
  simp [Nat.mul_comm]

/-- Padding keeps the frame registers sound (R185). -/
theorem prPad_frameInv {v : RdCtx} (k : Nat) (hc : cfgLegal v.cfg = true) (h : FrameInv v.cfg v.st)
    (ha : v.st.pstate ≠ .awaitingConfiguration) : FrameInv v.cfg (prPad v k).st := by
  unfold prPad
  split
  · exact h
  · rename_i hd
    have hkeeps : v.st.drop = false := by
      simp only [Bool.or_eq_true, not_or, Bool.not_eq_true] at hd
      exact hd.1
    refine (appendOut_filled hc (h.filling ha hkeeps) fun hu => ?_).frameInv (appendOut_frames v _) h.contInv
    have hs : sampleBytes v.cfg v.st.conf = v.cfg.sampleBits / 8 := by
      unfold sampleBytes
      cases hcodec : v.st.conf.codec <;> simp [hcodec, unpacks] at hu ⊢
    rw [flatten_replicate_length, fillerSample, storedSample_length, hs]
    exact wholeSamples_mul hc k

/-- A frame that has just been reset is sound, whatever was before (R181). -/
theorem frameReset_frameInv {cfg : Cfg} (st : Stream) (hc : cfgLegal cfg = true) : FrameInv cfg (frameReset st) :=
  frameInv_of_empty hc ⟨rfl, rfl⟩ ⟨rfl, rfl⟩ nofun nofun nofun fun _ => ⟨rfl, rfl, rfl, rfl⟩

/-- A start-of-frame leaves sound frame registers, whatever was before (R180). -/
theorem prSof_frameInv {v : RdCtx} (h : Header) (hc : cfgLegal v.cfg = true)
    (ha : v.st.pstate ≠ .awaitingConfiguration) : FrameInv v.cfg (prSof v h).st := by
  unfold prSof
  dsimp only
  split
  · refine prPad_frameInv (v := { prFrameReset v with st := { (prFrameReset v).st with trailPad := _ } }) _ hc ?_ ha
    exact frameInv_of_empty hc ⟨rfl, rfl⟩ ⟨rfl, rfl⟩ nofun nofun nofun fun h => absurd h ha
  · exact frameReset_frameInv v.st hc

/-- The loss flags stay sound (R44 (h), R179). -/
theorem lossFlags_frameInv {cfg : Cfg} {st : Stream} (h : FrameInv cfg st) (ha : st.pstate ≠ .awaitingConfiguration)
    (sof now : Bool) : FrameInv cfg (lossFlags st sof now) := by
  obtain ⟨hout, hcont, hcap, hpass, h11, h12, hdrop, hfirst, hlast, -⟩ := h
  refine ⟨hout, hcont, hcap, hpass, h11, h12, hdrop, fun hf => ?_, fun hl => ?_, fun hp => absurd hp ha⟩
  · cases sof <;> simp_all [lossFlags]
  · simp_all [lossFlags]

/-! ### The codec -/

/-- The map of a raw code reads the table only where it is whole (R245, R251). -/
theorem bdMap_ok {v : RdCtx} (ht : TableReady v.cfg v.st) (r : Nat) : ∃ d, bdMap v r = .ok d := by
  unfold bdMap
  split
  · exact ⟨_, rfl⟩
  · split
    · obtain ⟨d, hd⟩ := (ht.resolve_left (by simp_all)).cell (a := r) (by omega)
      exact ⟨d, by rw [hd]⟩
    · exact ⟨_, rfl⟩

theorem mapCodes_ok {v : RdCtx} (ht : TableReady v.cfg v.st) (rs : List Nat) : ∃ ds, mapCodes v rs = .ok ds := by
  induction rs with
  | nil => exact ⟨[], rfl⟩
  | cons r rs ih =>
    obtain ⟨d, hd⟩ := bdMap_ok ht r
    obtain ⟨ds, hds⟩ := ih
    exact ⟨d :: ds, by rw [mapCodes, hd, hds]; rfl⟩

theorem bdElementList_ok {v : RdCtx} (ht : TableReady v.cfg v.st) (w n : Nat) (elem : List Byte) :
    ∃ ds, bdElementList v w n elem = .ok ds := mapCodes_ok ht _

/-- `BD.UNPACK`'s loop maps element after element (R242). -/
theorem unpackElements_ok {v : RdCtx} (ht : TableReady v.cfg v.st) (w n k : Nat) :
    ∀ bytes, ∃ ds, unpackElements v w n k bytes = .ok ds := by
  induction k with
  | zero => exact fun _ => ⟨[], rfl⟩
  | succ k ih =>
    intro bytes
    obtain ⟨here, hh⟩ := bdElementList_ok ht w n (bytes.take n)
    obtain ⟨rest, hr⟩ := ih (bytes.drop n)
    exact ⟨here ++ rest, by rw [unpackElements, hh]; simp only [hr]; rfl⟩

/-- An element goes to `OUT` whole or overflows (R244). -/
theorem bdElementOut_sure {v : RdCtx} (w n : Nat) (elem : List Byte) (hc : cfgLegal v.cfg = true)
    (ht : TableReady v.cfg v.st) (h : Filling v.cfg v.st) :
    Sure (bdElementOut v w n elem) fun u => Filled v.cfg v u ∧ Frames v u := by
  obtain ⟨ds, hd⟩ := bdElementList_ok ht w n elem
  have hfilled : Filled v.cfg v (appendOut v (samplesBytes (v.cfg.sampleBits / 8) ds)) :=
    appendOut_filled hc h fun _ => by rw [samplesBytes_length]; exact wholeSamples_mul hc _
  rw [bdElementOut, hd]
  exact sure_ok ⟨hfilled, appendOut_frames v _⟩

theorem Frames.tableReady {v u : RdCtx} (h : Frames v u) (ht : TableReady v.cfg v.st) : TableReady u.cfg u.st := by
  rw [TableReady, h.cfg, h.record]
  exact ht

/-- The whole elements of a piece: they are in and the rest of the bytes is left, or the stream drops (R243). -/
theorem feedElements_sure (w n k : Nat) : ∀ (v : RdCtx) (bytes : List Byte), cfgLegal v.cfg = true →
    TableReady v.cfg v.st → Filling v.cfg v.st → Sure (feedElements w n k v bytes) fun p =>
      Frames v p.1 ∧ ((p.2 = none ∧ FrameInv v.cfg p.1.st) ∨
        (p.2 = some (bytes.drop (k * n)) ∧ Filling v.cfg p.1.st)) := by
  induction k with
  | zero =>
    intro v bytes hc ht h
    exact sure_ok ⟨.refl v, .inr ⟨by simp, h⟩⟩
  | succ k ih =>
    intro v bytes hc ht h
    refine (bdElementOut_sure w n _ hc ht h).bind fun u ⟨hu, hf⟩ => ?_
    obtain ⟨hfill, -, -⟩ | ⟨hdrop, hinv⟩ := hu
    · rw [if_neg (by simp [hfill.keeps])]
      have hrest := ih u (bytes.drop n) (hf.cfg ▸ hc) (hf.tableReady ht) (hf.cfg.symm ▸ hfill)
      refine hrest.mono fun p ⟨hp, hcase⟩ => ⟨hf.trans hp, ?_⟩
      rw [hf.cfg, List.drop_drop] at hcase
      rwa [show (k + 1) * n = n + k * n by rw [Nat.succ_mul, Nat.add_comm]]
    · rw [if_pos hdrop]
      exact sure_ok ⟨hf, .inl ⟨rfl, hinv⟩⟩

/-- The codec of a stream and its element size (R45). -/
def ElementOf (cfg : Cfg) (codec : Codec) (n : Nat) : Prop :=
  (codec = .unpack11 ∧ n = cfg.elemIn11) ∨ (codec = .unpack12 ∧ n = cfg.elemIn12)

theorem ElementOf.bounds {cfg : Cfg} {codec : Codec} {n : Nat} (h : ElementOf cfg codec n) (hc : cfgLegal cfg = true) :
    1 ≤ n ∧ n ≤ 24 := by
  obtain ⟨h11, h11', h12, h12'⟩ := elementSizes_of_cfgLegal hc
  obtain ⟨-, rfl⟩ | ⟨-, rfl⟩ := h
  · exact ⟨h11, h11'⟩
  · exact ⟨h12, h12'⟩

/-- Fewer bytes than an element are sound continuation bytes. -/
theorem contInv_of_short {cfg : Cfg} {st : Stream} {n : Nat} (he : ElementOf cfg st.conf.codec n)
    (hcont : Holds st.cont st.contLen.toNat) (hl : st.contLen.toNat < n) : ContInv cfg st := by
  obtain ⟨hcodec, rfl⟩ | ⟨hcodec, rfl⟩ := he <;> exact ⟨hcont, by simp [hcodec], by simp_all, by simp_all⟩

theorem ContInv.short {cfg : Cfg} {st : Stream} {n : Nat} (h : ContInv cfg st) (he : ElementOf cfg st.conf.codec n) :
    st.contLen.toNat < n := by
  obtain ⟨hcodec, rfl⟩ | ⟨hcodec, rfl⟩ := he
  · exact h.short11 hcodec
  · exact h.short12 hcodec

theorem contLen_ofNat {n : Nat} (h : n ≤ 24) : (BitVec.ofNat 5 n).toNat = n := by
  rw [BitVec.toNat_ofNat, Nat.mod_eq_of_lt (by omega)]

/-- The end of `BD.FEED` leaves sound frame registers (R243). -/
theorem feedWhole_sure {v : RdCtx} {n : Nat} (w : Nat) (bytes : List Byte) (hc : cfgLegal v.cfg = true)
    (ht : TableReady v.cfg v.st) (h : Filling v.cfg v.st) (he : ElementOf v.cfg v.st.conf.codec n) :
    Sure (feedWhole v w n bytes) fun u => FrameInv v.cfg u.st := by
  obtain ⟨h1, h24⟩ := he.bounds hc
  refine (feedElements_sure w n _ v bytes hc ht h).bind fun (u, rest) ⟨hf, hcase⟩ => ?_
  obtain ⟨rfl, hinv⟩ | ⟨rfl, hfill⟩ := hcase
  · exact sure_ok hinv
  · have hconf : u.st.conf = v.st.conf := by rw [hf.record]
    have hl : (bytes.drop (bytes.length / n * n)).length < n := by
      rw [List.length_drop, Nat.mul_comm, ← Nat.mod_eq_sub]
      exact Nat.mod_lt _ h1
    have hcont : Holds (writeCells [] 0 (bytes.drop (bytes.length / n * n)))
        (BitVec.ofNat 5 (bytes.drop (bytes.length / n * n)).length).toNat := by
      rw [contLen_ofNat (by omega), writeCells_nil_zero]
      exact tableCells_holds _
    refine sure_ok (Filling.frameInv ⟨hfill.armed, hfill.out, hfill.cap, hfill.whole, hfill.keeps, hfill.first, hfill.last⟩
      (contInv_of_short (n := n) (by rw [← hconf] at he; exact he) hcont ?_))
    exact (contLen_ofNat (Nat.le_trans (Nat.le_of_lt hl) h24)).symm ▸ hl

/-- The element that carried bytes complete, then the rest of the piece (R243). -/
theorem carriedElement_sure {v : RdCtx} {n : Nat} (w : Nat) (elem rest : List Byte) (hc : cfgLegal v.cfg = true)
    (ht : TableReady v.cfg v.st) (h : Filling v.cfg v.st) (he : ElementOf v.cfg v.st.conf.codec n) :
    Sure (do
      let u ← bdElementOut v w n elem
      if u.st.drop then .ok u else feedWhole { u with st := { u.st with cont := [], contLen := 0 } } w n rest)
      fun u => FrameInv v.cfg u.st := by
  refine (bdElementOut_sure w n elem hc ht h).bind fun u ⟨hu, hf⟩ => ?_
  obtain ⟨hfilled, -, -⟩ | ⟨hdrop, hinv⟩ := hu
  · rw [if_neg (by simp [hfilled.keeps])]
    have hconf : u.st.conf = v.st.conf := by rw [hf.record]
    have hcfg : u.cfg = v.cfg := hf.cfg
    rw [← hcfg] at hc hfilled he ⊢
    rw [← hconf] at he
    exact feedWhole_sure (v := { u with st := { u.st with cont := [], contLen := 0 } }) w rest hc (hf.tableReady ht)
      ⟨hfilled.armed, hfilled.out, hfilled.cap, hfilled.whole, hfilled.keeps, hfilled.first, hfilled.last⟩ he
  · rw [if_pos hdrop]
    exact sure_ok hinv

/-- `BD.FEED` leaves sound frame registers, and its element is read from cells that hold values (R243). -/
theorem bdFeed_sure {v : RdCtx} {n : Nat} (w : Nat) (bytes : List Byte) (hc : cfgLegal v.cfg = true)
    (ht : TableReady v.cfg v.st) (h : Filling v.cfg v.st) (hcont : ContInv v.cfg v.st)
    (he : ElementOf v.cfg v.st.conf.codec n) : Sure (bdFeed v w n bytes) fun u => FrameInv v.cfg u.st := by
  obtain ⟨h1, h24⟩ := he.bounds hc
  have hshort := hcont.short he
  unfold bdFeed
  dsimp only
  split
  · exact feedWhole_sure w bytes hc ht h he
  · generalize hm : min bytes.length (n - v.st.contLen.toNat) = m
    have hlen : (bytes.take m).length = m := by rw [List.length_take]; omega
    have hgrown : Holds (writeCells v.st.cont v.st.contLen.toNat (bytes.take m)) (v.st.contLen.toNat + m) := by
      have := hcont.cont.append (bytes.take m)
      rwa [hlen] at this
    have hfill (cont : Memory) (k : BitVec 5) : Filling v.cfg { v.st with cont := cont, contLen := k } :=
      ⟨h.armed, h.out, h.cap, h.whole, h.keeps, h.first, h.last⟩
    split
    · rename_i hlt
      refine sure_ok ((hfill _ _).frameInv (contInv_of_short (n := n) he ?_ ?_))
      · rwa [contLen_ofNat (by omega)]
      · rwa [contLen_ofNat (by omega)]
    · have hn : v.st.contLen.toNat + m = n := by omega
      rw [hn] at hgrown ⊢
      obtain ⟨elem, helem, -, -⟩ := hgrown.read .cont
      rw [helem]
      exact carriedElement_sure w elem (bytes.drop m) hc ht (hfill _ _) he

/-- A piece of payload leaves sound frame registers (R183). -/
theorem prPiece_sure {v : RdCtx} (bytes : List Byte) (hc : cfgLegal v.cfg = true) (h : FrameInv v.cfg v.st)
    (ha : v.st.pstate ≠ .awaitingConfiguration) (ht : v.st.conf.codec = .pass ∨ TableReady v.cfg v.st)
    (hx : v.st.conf.codec ≠ .xform) : Sure (prPiece v bytes) fun u => FrameInv v.cfg u.st := by
  unfold prPiece
  split
  · exact sure_ok h
  · rename_i hd
    have hfill := h.filling ha (by simpa using hd)
    split
    · rename_i hcodec
      refine sure_ok ((appendOut_filled hc hfill fun hu => ?_).frameInv (appendOut_frames v bytes) h.contInv)
      rw [hcodec] at hu
      cases hu
    · rename_i hcodec
      exact bdFeed_sure 11 bytes hc (ht.resolve_left (by simp [hcodec])) hfill h.contInv (.inl ⟨hcodec, rfl⟩)
    · rename_i hcodec
      exact bdFeed_sure 12 bytes hc (ht.resolve_left (by simp [hcodec])) hfill h.contInv (.inr ⟨hcodec, rfl⟩)
    · rename_i hcodec
      exact absurd hcodec hx

/-- End-of-frame reads the bytes the frame holds, and leaves an empty frame (R184, R187). -/
theorem prEof_sure {v : RdCtx} (hc : cfgLegal v.cfg = true) (h : FrameInv v.cfg v.st)
    (ha : v.st.pstate ≠ .awaitingConfiguration) : Sure (prEof v) fun u => FrameInv v.cfg u.st := by
  have hout : Holds v.frameEnd.st.out v.frameEnd.st.outLen.toNat := by
    obtain ⟨hpadded, -⟩ := prPad_frameInv v.st.trailPad.toNat hc h ha
    unfold RdCtx.frameEnd
    dsimp only
    split <;> exact hpadded
  obtain ⟨data, hdata, -, -⟩ := hout.read .out
  rw [prEof_eq, prPublish, hdata]
  exact sure_ok (frameReset_frameInv _ hc)

end Sys2Proof.Machine
end

section
/-! PROOFS. A time conversion keeps the synchronizer's registers sound, wherever it waits and goes on, and its only fault is a
value beyond 64 bits (R44 (i), (j), R72, R79, R211 to R219, R222). -/

namespace Sys2Proof.Machine

/-! ### What a stream's operation does to what it shares -/

/-- `CLK_LOCK` is free, or held by this stream's reader agent. -/
def RdCtx.owns (v : RdCtx) : Prop := v.clkLock = none ∨ v.clkLock = some (.rd v.sid)

/-- What a part of a stream's operation does outside its record: only under its own `CLK_LOCK` does it change the reference,
and only to establish one; the clock goes on, and no answer at `CTRL_RX` is taken (R29, R72, R79, R298). -/
structure Shares (v u : RdCtx) : Prop where
  sid : u.sid = v.sid
  cfg : u.cfg = v.cfg
  cap : u.cap = v.cap
  ref : (u.ref = v.ref ∧ u.clkLock = v.clkLock) ∨
    (v.owns ∧ u.owns ∧ (u.ref = v.ref ∨ (v.ref.valid = false ∧ u.ref.valid = true)))
  last : v.io.clock.last ≤ u.io.clock.last
  recvQ : u.io.recvQ = v.io.recvQ

theorem Shares.refl (v : RdCtx) : Shares v v := ⟨rfl, rfl, rfl, .inl ⟨rfl, rfl⟩, BitVec.le_refl _, rfl⟩

theorem Shares.trans {v u w : RdCtx} (h : Shares v u) (k : Shares u w) : Shares v w := by
  refine ⟨k.sid.trans h.sid, k.cfg.trans h.cfg, k.cap.trans h.cap, ?_, BitVec.le_trans h.last k.last,
    k.recvQ.trans h.recvQ⟩
  obtain ⟨href, hlock⟩ | ⟨hv, hu, href⟩ := h.ref
  · obtain ⟨kref, klock⟩ | ⟨ku, kw, kref⟩ := k.ref
    · exact .inl ⟨kref.trans href, klock.trans hlock⟩
    · refine .inr ⟨by rwa [RdCtx.owns, hlock, h.sid] at ku, kw, ?_⟩
      rwa [href] at kref
  · obtain ⟨kref, klock⟩ | ⟨ku, kw, kref⟩ := k.ref
    · exact .inr ⟨hv, by rwa [RdCtx.owns, klock, k.sid], by rwa [kref]⟩
    · refine .inr ⟨hv, kw, ?_⟩
      obtain kref | ⟨kvalid, kvalid'⟩ := kref
      · rwa [kref]
      · obtain href | ⟨-, hvalid⟩ := href
        · exact .inr ⟨href ▸ kvalid, kvalid'⟩
        · rw [kvalid] at hvalid
          cases hvalid

theorem Frames.shares {v u : RdCtx} (h : Frames v u) : Shares v u :=
  ⟨h.sid, h.cfg, h.cap, .inl ⟨h.ref, h.clkLock⟩, by rw [h.clock]; exact BitVec.le_refl _, h.recvQ⟩

/-- A host clock read takes only the clock on. -/
theorem shares_of_hostClock {v : RdCtx} {now : Micros} {io : Io} (h : hostClock v.io = some (now, io)) :
    Shares v { v with io := io } := by
  refine ⟨rfl, rfl, rfl, .inl ⟨rfl, rfl⟩, (grows_hostClock h).last, ?_⟩
  rw [hostClock_io h]

/-- A change of the record is none of what is shared. -/
theorem Shares.record {v u : RdCtx} (h : Shares v u) (st : Stream) : Shares v { u with st := st } :=
  ⟨h.sid, h.cfg, h.cap, h.ref, h.last, h.recvQ⟩

/-! ### Sound synchronizer registers -/

/-- A synchronized stream's registers, `CS.INIT` done (R44 (j), R213, R215, R216). -/
def Synced (cfg : Cfg) (ref : ClockRef) (st : Stream) : Prop :=
  st.syFirst = false → ref.valid = true ∧ st.syLref = ref.tick ∧ st.syTotal.toNat % 2 ^ cfg.tickBits = 0 ∧
    ref.tick.toNat ≤ st.syTotal.toNat + st.syLastTick.toNat

/-- The reference lies within the clocks: not after the host's last answer, within one wrap of the device's (R14, R29). -/
def RdCtx.refFits (v : RdCtx) : Prop :=
  v.ref.host ≤ v.io.clock.last ∧ v.ref.tick.toNat < 2 ^ v.cfg.tickBits

/-- The view of a stream in whose conversions nothing waits. -/
structure Clocked (v : RdCtx) : Prop where
  lock : v.clkLock ≠ some (.rd v.sid)
  sync : Synced v.cfg v.ref v.st
  ref : v.ref.valid = true → v.refFits

/-- A conversion an agent or the parser may start: `CS.TOHOST` of a tick the counter shows, or `CS.HOSTONLY`. -/
structure Convertible (cfg : Cfg) (op : TimeOp) : Prop where
  asks : op.asks = true
  tick : op.tick.toNat < 2 ^ cfg.tickBits

/-- The view of a stream whose conversion waits at `w` (R18, R72, R74, R211, R219). -/
structure Stalled (w : TimeWait) (v : RdCtx) : Prop where
  op : Convertible v.cfg w.op
  zero : w.op = .tohost 0 → w.stage = .clock
  before : w.stage = .lock → v.clkLock ≠ some (.rd v.sid)
  inside : w.stage = .reference → v.clkLock = some (.rd v.sid) ∧ v.ref.valid = false
  after : w.stage = .clock → v.clkLock ≠ some (.rd v.sid) ∧ v.refFits
  ref : v.ref.valid = true → v.refFits
  first : v.st.syFirst = false → v.ref.valid = true
  sync : w.stage ≠ .clock ∨ w.op = .hostonly → Synced v.cfg v.ref v.st

/-- How far a conversion comes: to its end in a view with `P`, or to a wait. -/
def Comes {α : Type} (op : TimeOp) (P : RdCtx → Prop) (v : RdCtx) : Run α → Prop
  | .done _ u => P u ∧ Shares v u
  | .wait w u => w.op = op ∧ Stalled w u ∧ Shares v u

theorem Comes.after {α : Type} {op : TimeOp} {P : RdCtx → Prop} {v u : RdCtx} {r : Run α} (h : Shares v u)
    (hr : Comes op P u r) : Comes op P v r := by
  cases r with
  | done a w => exact ⟨hr.1, h.trans hr.2⟩
  | wait t w => exact ⟨hr.1, hr.2.1, h.trans hr.2.2⟩

theorem Comes.bind {α β : Type} {op : TimeOp} {P Q : RdCtx → Prop} {v : RdCtx} {r : Run α}
    {next : α → RdCtx → Except Fault (Run β)} (hr : Comes op P v r) (hn : ∀ a u, P u → Sure (next a u) (Comes op Q u)) :
    Sure (r.bind next) (Comes op Q v) := by
  cases r with
  | done a u => exact (hn a u hr.1).mono fun _ => .after hr.2
  | wait w u => exact sure_ok hr

/-! ### The reference -/

/-- Inside the lock: a reference is there, or is established, or its clock read waits (R79, R212). -/
theorem csReference_comes {op : TimeOp} {v : RdCtx} (ho : Convertible v.cfg op) (h0 : op ≠ .tohost 0)
    (hl : v.clkLock = some (.rd v.sid)) (hs : Synced v.cfg v.ref v.st) (hr : v.ref.valid = true → v.refFits) :
    Comes op (fun u => Clocked u ∧ u.ref.valid = true) v (csReference op v) := by
  have hown : RdCtx.owns v := .inr hl
  unfold csReference
  split
  · rename_i hv
    exact ⟨⟨⟨nofun, hs, hr⟩, hv⟩, rfl, rfl, rfl, .inr ⟨hown, .inl rfl, .inl rfl⟩, BitVec.le_refl _, rfl⟩
  · rename_i hv
    have hv : v.ref.valid = false := by simpa using hv
    have hfirst (h : v.st.syFirst = false) : v.ref.valid = true := (hs h).1
    split
    · exact ⟨rfl, ⟨ho, fun h => absurd h h0, nofun, fun _ => ⟨hl, hv⟩, nofun, hr, hfirst, fun _ => hs⟩, .refl v⟩
    · rename_i now io hn
      have hshare := shares_of_hostClock hn
      refine ⟨⟨⟨nofun, fun h => ?_, fun _ => ⟨?_, ho.tick⟩⟩, rfl⟩, rfl, rfl, rfl,
        .inr ⟨hown, .inl rfl, .inr ⟨hv, rfl⟩⟩, hshare.last, hshare.recvQ⟩
      · rw [hfirst h] at hv
        cases hv
      · rw [hostClock_io hn]
        exact BitVec.le_refl _

/-- `CS.ESTABLISH` waits at its lock, or goes on inside it (R212). -/
theorem csEstablish_comes {op : TimeOp} {v : RdCtx} (ho : Convertible v.cfg op) (h0 : op ≠ .tohost 0) (h : Clocked v) :
    Comes op (fun u => Clocked u ∧ u.ref.valid = true) v (csEstablish op v) := by
  unfold csEstablish
  split
  · exact ⟨rfl, ⟨ho, fun h => absurd h h0, fun _ => h.lock, nofun, nofun, h.ref, fun hf => (h.sync hf).1,
      fun _ => h.sync⟩, .refl v⟩
  · rename_i hfree
    have hnone : v.clkLock = none := by
      simp only [Bool.or_eq_true, not_or, Bool.not_eq_true, Option.isSome_eq_false_iff, Option.isNone_iff_eq_none] at hfree
      exact hfree.1
    have hlock : Shares v { v with clkLock := some (.rd v.sid) } :=
      ⟨rfl, rfl, rfl, .inr ⟨.inl hnone, .inr rfl, .inl rfl⟩, BitVec.le_refl _, rfl⟩
    exact (csReference_comes (v := { v with clkLock := some (.rd v.sid) }) ho h0 rfl h.sync h.ref).after hlock

/-! ### One stream's tick count -/

/-- The total of `CS.INIT` is a whole number of wraps, and with the last tick not below the reference (R213 to R215). -/
theorem wraps_reach {span refTick tick total : Nat} {w : Int} (hspan : refTick < span)
    (ht : (total : Int) = w * span) (hw : w < 0 → False) (h0 : w = 0 → refTick ≤ tick) :
    total % span = 0 ∧ refTick ≤ total + tick := by
  obtain ⟨k, rfl⟩ := Int.eq_ofNat_of_zero_le (Int.not_lt.mp hw)
  have ht : total = k * span := by exact_mod_cast ht
  refine ⟨by rw [ht]; exact Nat.mul_mod_left _ _, ?_⟩
  obtain rfl | hk := Nat.eq_zero_or_pos k
  · exact Nat.le_trans (h0 rfl) (Nat.le_add_left _ _)
  · have : span ≤ k * span := Nat.le_mul_of_pos_left span hk
    omega

/-- `CS.INIT` sets the three registers so that they count from the reference (R213, R215). -/
theorem csInitAt_sure {v : RdCtx} (tick : Tick) (now : Micros) (hr : v.ref.tick.toNat < 2 ^ v.cfg.tickBits) :
    Sure (csInitAt v tick now) fun p => ∃ total last, p.2 = { v with st := { v.st with
        syLref := v.ref.tick, syTotal := total, syLastTick := last } } ∧
      total.toNat % 2 ^ v.cfg.tickBits = 0 ∧ v.ref.tick.toNat ≤ total.toNat + last.toNat := by
  unfold csInitAt
  dsimp only
  generalize wrapCount _ _ _ _ = w
  refine (sure_to64 _).bind fun total htotal => (sure_to64 _).bind fun res _ => sure_ok ⟨_, _, rfl, ?_⟩
  have hspan : wrapSpan v.cfg = ((2 ^ v.cfg.tickBits : Nat) : Int) := by simp [wrapSpan]
  rw [hspan] at htotal
  by_cases hc : wrapClamped w tick v.ref.tick = true
  · rw [if_pos hc] at htotal ⊢
    exact wraps_reach hr htotal (by omega) fun _ => Nat.le_refl _
  · rw [if_neg hc] at htotal ⊢
    simp only [wrapClamped, Bool.or_eq_true, Bool.and_eq_true, decide_eq_true_eq, not_or, not_and] at hc
    exact wraps_reach hr htotal hc.1 fun h => BitVec.not_lt.mp (hc.2 h)

/-- From its clock read on `CS.INIT` ends synchronized, or waits on (R18, R213). -/
theorem csInitRead_comes {op : TimeOp} {v : RdCtx} (h : Stalled ⟨op, .clock⟩ v) :
    Sure (csInitRead op v) (Comes op Clocked v) := by
  obtain ⟨hlock, hfits⟩ := h.after rfl
  unfold csInitRead
  split
  · exact sure_ok ⟨rfl, h, .refl v⟩
  · rename_i now io hn
    have hshare := shares_of_hostClock hn
    refine (csInitAt_sure (v := { v with io := io }) op.tick now hfits.2).bind fun (us, u) ⟨total, last, hu, hsync⟩ => ?_
    obtain rfl := hu
    exact sure_ok ⟨⟨hlock, fun hf => ⟨h.first hf, rfl, hsync⟩, fun _ => ⟨BitVec.le_trans hfits.1 hshare.last, hfits.2⟩⟩,
      hshare.record _⟩

/-- With a reference `CS.INIT` may begin: `SY_FIRST` is cleared (R213; log entry 37). -/
theorem Clocked.initializing {op : TimeOp} {v : RdCtx} (h : Clocked v) (ho : Convertible v.cfg op)
    (hn : op ≠ .hostonly) (hv : v.ref.valid = true) :
    Stalled ⟨op, .clock⟩ { v with st := { v.st with syFirst := false } } :=
  ⟨ho, fun _ => rfl, nofun, nofun, fun _ => ⟨h.lock, h.ref hv⟩, h.ref, fun _ => hv,
    fun hw => absurd hw (by simp [hn])⟩

theorem csInit_comes {op : TimeOp} {v : RdCtx} (h : Clocked v) (ho : Convertible v.cfg op) (hn : op ≠ .hostonly)
    (hv : v.ref.valid = true) : Sure (csInit op v) (Comes op Clocked v) :=
  (csInitRead_comes (h.initializing ho hn hv)).mono fun _ => .after ((Shares.refl v).record _)

/-- `CS.ADVANCE` keeps the count (R216). -/
theorem csAdvance_sure {v : RdCtx} (tick : Tick) (h : Clocked v) (hf : v.st.syFirst = false) :
    Sure (csAdvance v tick) fun p => Clocked p.2 ∧ Shares v p.2 ∧ p.2.ref = v.ref := by
  obtain ⟨hv, hlref, hmod, hreach⟩ := h.sync hf
  unfold csAdvance
  refine (sure_to64 _).bind fun total htotal => (sure_to64 _).bind fun res _ => sure_ok
    ⟨⟨h.lock, fun _ => ⟨hv, hlref, ?_⟩, h.ref⟩, (Shares.refl v).record _, rfl⟩
  have hspan := (h.ref hv).2
  show total.toNat % 2 ^ v.cfg.tickBits = 0 ∧ v.ref.tick.toNat ≤ total.toNat + tick.toNat
  by_cases hlt : v.st.syLastTick < tick
  · rw [if_pos hlt] at htotal
    have ht : total.toNat = v.st.syTotal.toNat := by omega
    have hlt : v.st.syLastTick.toNat < tick.toNat := hlt
    exact ⟨ht ▸ hmod, by omega⟩
  · rw [if_neg hlt] at htotal
    have ht : total.toNat = v.st.syTotal.toNat + 2 ^ v.cfg.tickBits := by
      have hspan : wrapSpan v.cfg = ((2 ^ v.cfg.tickBits : Nat) : Int) := by simp [wrapSpan]
      rw [hspan] at htotal
      exact_mod_cast htotal
    exact ⟨by rw [ht, Nat.add_mod_right, hmod], by omega⟩

/-! ### The conversions -/

theorem csAccept_comes {op : TimeOp} (us : Micros) (v : RdCtx) (h : Clocked v) :
    Sure (csAccept us v) (Comes op Clocked v) :=
  sure_ok ⟨⟨h.lock, h.sync, h.ref⟩, (Shares.refl v).record _⟩

/-- `CS.TOHOST` with a reference: a first call, a later one, or a new start after too big a jump (R211, R218). -/
theorem csConvert_comes {tick : Tick} {v : RdCtx} (h : Clocked v) (ho : Convertible v.cfg (.tohost tick))
    (hv : v.ref.valid = true) : Sure (csConvert (.tohost tick) v) (Comes (.tohost tick) Clocked v) := by
  unfold csConvert
  split
  · exact (csInit_comes h ho nofun hv).bind fun r hr => hr.bind csAccept_comes
  · rename_i hf
    refine (csAdvance_sure _ h (by simpa using hf)).bind fun (us, u) ⟨hu, hshare, href⟩ => ?_
    dsimp only
    split
    · have hmarked : Clocked { u.raise (.clockDesync u.sid) with st := { u.st with syFirst := true } } :=
        ⟨hu.lock, nofun, hu.ref⟩
      have hresync : Sure (csResync (.tohost tick) u) (Comes (.tohost tick) Clocked u) :=
        (csInit_comes hmarked (by rwa [← hshare.cfg] at ho) (by simp) (by rwa [← href] at hv)).mono fun _ =>
          .after (((Shares.refl u).record _).trans ((Frames.emit (.refl _) _).shares))
      exact hresync.bind fun r hr => (hr.bind csAccept_comes).mono fun _ => .after hshare
    · exact (csAccept_comes us u hu).mono fun _ => .after hshare

/-- `CS.HOSTONLY` from its clock read on (R219). -/
theorem csElapsed_comes {v : RdCtx} (h : Stalled ⟨.hostonly, .clock⟩ v) :
    Sure (csElapsed .hostonly v) (Comes .hostonly Clocked v) := by
  obtain ⟨hlock, hfits⟩ := h.after rfl
  unfold csElapsed
  split
  · exact sure_ok ⟨rfl, h, .refl v⟩
  · rename_i now io hn
    have hshare := shares_of_hostClock hn
    exact (sure_to64 _).bind fun us _ => sure_ok
      ⟨⟨hlock, h.sync (.inr rfl), fun _ => ⟨BitVec.le_trans hfits.1 hshare.last, hfits.2⟩⟩, hshare⟩

/-- With a reference `CS.HOSTONLY` is at its clock read (R219). -/
theorem Clocked.elapsing {v : RdCtx} (h : Clocked v) (ho : Convertible v.cfg .hostonly) (hv : v.ref.valid = true) :
    Stalled ⟨.hostonly, .clock⟩ v :=
  ⟨ho, fun _ => rfl, nofun, nofun, fun _ => ⟨h.lock, h.ref hv⟩, h.ref, fun hf => (h.sync hf).1, fun _ => h.sync⟩

theorem csEstablished_comes {op : TimeOp} {v : RdCtx} (ho : Convertible v.cfg op) (h : Clocked v)
    (hv : v.ref.valid = true) : Sure (csEstablished op v) (Comes op Clocked v) := by
  cases op with
  | tohost tick => exact csConvert_comes h ho hv
  | hostonly => exact csElapsed_comes (h.elapsing ho hv)
  | establish tick => cases ho.asks
  | init tick => cases ho.asks

/-- A conversion that has established its reference goes on. -/
theorem establishing_comes {op : TimeOp} {cfg : Cfg} (ho : Convertible cfg op) {v : RdCtx} (hcfg : v.cfg = cfg)
    {r : Run Unit} (hr : Comes op (fun u => Clocked u ∧ u.ref.valid = true) v r) :
    Sure (r.bind fun _ u => csEstablished op u) (Comes op Clocked v) := by
  cases r with
  | done a u =>
    obtain ⟨⟨hu, hv⟩, hshare⟩ := hr
    exact (csEstablished_comes (hshare.cfg.trans hcfg ▸ ho) hu hv).mono fun _ => .after hshare
  | wait w u => exact sure_ok hr

/-- A conversion from its start (R211, R219). -/
theorem csBegin_comes {op : TimeOp} {v : RdCtx} (ho : Convertible v.cfg op) (h : Clocked v) :
    Sure (csBegin op v) (Comes op Clocked v) := by
  by_cases hv : v.ref.valid = true
  · rw [csBegin_referenced ho.asks hv]
    exact csEstablished_comes ho h hv
  · have hv : v.ref.valid = false := by simpa using hv
    by_cases h0 : op = .tohost 0
    · subst h0
      have hnow : csBegin (.tohost 0) v = .ok (.done 0 v) := by simp [csBegin, hv]
      rw [hnow]
      exact sure_ok ⟨h, .refl v⟩
    · rw [csBegin_unreferenced ho.asks hv h0]
      exact establishing_comes ho rfl (csEstablish_comes ho h0 h)

theorem csRead_comes {op : TimeOp} {v : RdCtx} (h : Stalled ⟨op, .clock⟩ v) : Sure (csRead op v) (Comes op Clocked v) := by
  cases op with
  | tohost tick => exact (csInitRead_comes h).bind fun r hr => hr.bind csAccept_comes
  | hostonly => exact csElapsed_comes h
  | establish tick => cases h.op.asks
  | init tick => cases h.op.asks

/-- A conversion from where it waited (R18). -/
theorem csResume_comes {w : TimeWait} {v : RdCtx} (h : Stalled w v) : Sure (csResume w v) (Comes w.op Clocked v) := by
  obtain ⟨op, stage⟩ := w
  cases stage with
  | lock =>
    have h0 : op ≠ .tohost 0 := fun h0 => nomatch h.zero h0
    exact establishing_comes h.op rfl (csEstablish_comes h.op h0 ⟨h.before rfl, h.sync (.inl nofun), h.ref⟩)
  | reference =>
    have h0 : op ≠ .tohost 0 := fun h0 => nomatch h.zero h0
    exact establishing_comes h.op rfl (csReference_comes h.op h0 (h.inside rfl).1 (h.sync (.inl nofun)) h.ref)
  | clock => exact csRead_comes h

/-- The conversion of a packet's time may be started (R182). -/
theorem timeOp_convertible (cfg : Cfg) (st : Stream) (h : Header) : Convertible cfg (timeOp cfg st h) := by
  unfold timeOp
  cases st.conf.tsMode with
  | device => exact ⟨rfl, counterTick_lt cfg h.ts⟩
  | hostOnly => exact ⟨rfl, Nat.two_pow_pos _⟩

end Sys2Proof.Machine
end

section
/-! PROOFS. The parser keeps a stream sound, round after round of a chunk, and consumes every byte of it (R170 to R177, R44 (b),
(c), (k)). -/

namespace Sys2Proof.Machine

/-! ### What a stream has inside a chunk -/

/-- `HDR` holds the first bytes of a header, the magic and what has come since (R44 (b), R173, R174). -/
structure Heading (magic : Half) (st : Stream) : Prop where
  state : st.pstate = .readingHeader
  hdr : Holds st.hdr st.hdrCnt.toNat
  begun : 2 ≤ st.hdrCnt.toNat
  magic : hdrHalf st.hdr 0 = some magic
  half : st.magicHalf = false
  left : st.dataLeft = 0
  off : st.dataOff = 0

/-- `HDR` holds a whole header, of whose packet nothing has been read (R174). -/
structure HeaderWhole (magic : Half) (st : Stream) : Prop extends Heading magic st where
  count : st.hdrCnt = 12

/-- `HDR` holds the header of the packet whose payload is read (R44 (c), (k), R175). -/
structure InPayload (magic : Half) (st : Stream) : Prop where
  state : st.pstate = .readingData
  hdr : Holds st.hdr st.hdrCnt.toNat
  count : st.hdrCnt = 12
  magic : hdrHalf st.hdr 0 = some magic
  half : st.magicHalf = false
  bound : st.dataOff.toNat + st.dataLeft.toNat < 65536
  size : hdrHalf st.hdr 6 = some (st.dataOff + st.dataLeft)

theorem HeaderWhole.cells {magic : Half} {st : Stream} (h : HeaderWhole magic st) : Holds st.hdr 12 := by
  have hdr := h.hdr
  rwa [h.count] at hdr

theorem InPayload.cells {magic : Half} {st : Stream} (h : InPayload magic st) : Holds st.hdr 12 := by
  have hdr := h.hdr
  rwa [h.count] at hdr

/-- The view of an armed stream inside a chunk, with nothing left to ignore, whatever its parser does. -/
structure Armed (capValid : Bool) (v : RdCtx) : Prop where
  cfg : cfgLegal v.cfg = true
  frame : FrameInv v.cfg v.st
  guard : GuardInv v.cfg capValid v.st
  armed : v.st.pstate ≠ .awaitingConfiguration
  ignLeft : v.st.ignLeft = 0
  job : v.st.job = none
  lock : v.st.lock = some (.rd v.sid)

/-- The view of a stream between two rounds of a chunk. -/
structure InChunk (capValid : Bool) (v : RdCtx) : Prop where
  cfg : cfgLegal v.cfg = true
  clocked : Clocked v
  parser : ParserInv v.cap.magicD2H v.st
  frame : FrameInv v.cfg v.st
  guard : GuardInv v.cfg capValid v.st
  job : v.st.job = none
  lock : v.st.lock = some (.rd v.sid)

/-- The view of a stream at a whole header. -/
structure Headed (capValid : Bool) (v : RdCtx) : Prop extends Armed capValid v where
  whole : HeaderWhole v.cap.magicD2H v.st

theorem InChunk.armed {b : Bool} {v : RdCtx} (h : InChunk b v) (ha : v.st.pstate ≠ .awaitingConfiguration)
    (hi : v.st.pstate ≠ .ignoringGarbage) : Armed b v :=
  ⟨h.cfg, h.frame, h.guard, ha, h.parser.2.1 hi, h.job, h.lock⟩

/-! ### What the parts of a chunk leave -/

/-- The frame registers do not depend on where an armed stream's parser is. -/
theorem FrameInv.parses {cfg : Cfg} {st : Stream} (h : FrameInv cfg st) {p : PState} (hp : p ≠ .awaitingConfiguration)
    (i : Word) (m : Bool) (c : BitVec 4) (l o : Half) (hd : Memory) :
    FrameInv cfg { st with pstate := p, ignLeft := i, magicHalf := m, hdrCnt := c, dataLeft := l, dataOff := o, hdr := hd } := by
  obtain ⟨hout, hcont, hcap, hpass, h11, h12, hdrop, hfirst, hlast, -⟩ := h
  exact ⟨hout, hcont, hcap, hpass, h11, h12, hdrop, hfirst, hlast, fun h => absurd h hp⟩

/-- The guards hold wherever an armed stream's parser is. -/
theorem GuardInv.parses {cfg : Cfg} {b : Bool} {st : Stream} (h : GuardInv cfg b st)
    (ha : st.pstate ≠ .awaitingConfiguration) (p : PState) (i : Word) (m : Bool) (c : BitVec 4) (l o : Half) (hd : Memory) :
    GuardInv cfg b
      { st with pstate := p, ignLeft := i, magicHalf := m, hdrCnt := c, dataLeft := l, dataOff := o, hdr := hd } := by
  obtain ⟨hconf, hready, hwhole, hempty⟩ := h
  exact ⟨hconf, fun _ => hready ha, hwhole, hempty⟩

theorem Frames.hdr {v u : RdCtx} (h : Frames v u) : u.st.hdr = v.st.hdr := by rw [h.record]

theorem Converts.hdr {v u : RdCtx} (h : Converts v u) : u.st.hdr = v.st.hdr := by rw [h.record]

theorem Armed.frames {b : Bool} {v u : RdCtx} (h : Armed b v) (hf : Frames v u) (hi : FrameInv v.cfg u.st) : Armed b u := by
  refine ⟨hf.cfg ▸ h.cfg, hf.cfg ▸ hi, ?_, ?_, ?_, ?_, ?_⟩
  · rw [hf.cfg, hf.record]
    exact h.guard
  · rw [hf.record]
    exact h.armed
  · rw [hf.record]
    exact h.ignLeft
  · rw [hf.record]
    exact h.job
  · rw [hf.record, hf.sid]
    exact h.lock

theorem Armed.converts {b : Bool} {v u : RdCtx} (h : Armed b v) (hc : Converts v u) : Armed b u := by
  refine ⟨hc.cfg ▸ h.cfg, ?_, ?_, ?_, ?_, ?_, ?_⟩
  · rw [hc.cfg, hc.record]
    exact h.frame
  · rw [hc.cfg, hc.record]
    exact h.guard
  · rw [hc.record]
    exact h.armed
  · rw [hc.record]
    exact h.ignLeft
  · rw [hc.record]
    exact h.job
  · rw [hc.record, hc.sid]
    exact h.lock

theorem HeaderWhole.frames {v u : RdCtx} (h : HeaderWhole v.cap.magicD2H v.st) (hf : Frames v u) :
    HeaderWhole u.cap.magicD2H u.st := by
  rw [hf.cap, hf.record]
  exact ⟨⟨h.state, h.hdr, h.begun, h.magic, h.half, h.left, h.off⟩, h.count⟩

theorem InPayload.frames {v u : RdCtx} (h : InPayload v.cap.magicD2H v.st) (hf : Frames v u) :
    InPayload u.cap.magicD2H u.st := by
  rw [hf.cap, hf.record]
  exact ⟨h.state, h.hdr, h.count, h.magic, h.half, h.bound, h.size⟩

theorem HeaderWhole.converts {v u : RdCtx} (h : HeaderWhole v.cap.magicD2H v.st) (hc : Converts v u) :
    HeaderWhole u.cap.magicD2H u.st := by
  rw [hc.cap, hc.record]
  exact ⟨⟨h.state, h.hdr, h.begun, h.magic, h.half, h.left, h.off⟩, h.count⟩

theorem Clocked.frames {v u : RdCtx} (h : Clocked v) (hf : Frames v u) : Clocked u := by
  refine ⟨by rw [hf.clkLock, hf.sid]; exact h.lock, by rw [hf.cfg, hf.ref, hf.record]; exact h.sync, fun hv => ?_⟩
  rw [RdCtx.refFits, hf.ref, hf.clock, hf.cfg]
  exact h.ref (hf.ref ▸ hv)

/-! ### The header -/

/-- A whole header can be read, and its size field stands in the cells from 6 on (R32, R91). -/
theorem readHeader_whole {hdr : Memory} (h : Holds hdr 12) :
    ∃ hd, readHeader hdr = .ok hd ∧ hdrHalf hdr 6 = some hd.size := by
  obtain ⟨bs, rfl, hl⟩ := h.table
  refine ⟨headerOf bs, readHeader_table bs hl, ?_⟩
  simp [hdrHalf, readCell_tableCells, headerOf, hl]

/-- The first two header bytes stay where later ones are written (R174). -/
theorem hdrHalf_zero_append {hdr : Memory} {c : Nat} (bs : List Byte) (hc : 2 ≤ c) :
    hdrHalf (writeCells hdr c bs) 0 = hdrHalf hdr 0 := by
  simp only [hdrHalf]
  rw [readCell_writeCells_outside bs hdr (.inl (by omega)), readCell_writeCells_outside bs hdr (.inl (by omega))]

/-- Sound parser registers in `ReadingHeader`, between two rounds (R44 (b)). -/
theorem ParserInv.heading {magic : Half} {st : Stream} (h : ParserInv magic st) (hp : st.pstate = .readingHeader)
    (hj : st.inChunk = false) : Heading magic st ∧ st.hdrCnt.toNat ≤ 11 := by
  obtain ⟨hdr, -, -, hhalf, -, hhead, hdata, -⟩ := h
  obtain ⟨hmagic, hcount, -⟩ := hhead hp
  obtain ⟨h2, h11⟩ := hcount hj
  obtain ⟨hleft, hoff⟩ := hdata (by simp [hp])
  exact ⟨⟨hp, hdr, h2, hmagic, hhalf (by simp [hp]), hleft, hoff⟩, h11⟩

theorem Heading.parserInv {magic : Half} {st : Stream} (h : Heading magic st) (hi : st.ignLeft = 0)
    (hj : st.inChunk = false) (h11 : st.hdrCnt.toNat ≤ 11) : ParserInv magic st := by
  have hp := h.state
  exact ⟨h.hdr, fun _ => hi, by simp [hp], fun _ => h.half, by simp [hp],
    fun _ => ⟨h.magic, fun _ => ⟨h.begun, h11⟩, by simp [hj]⟩, fun _ => ⟨h.left, h.off⟩, by simp [hp]⟩

/-- More bytes of a header (R174). -/
theorem Heading.grows {magic : Half} {st : Stream} (h : Heading magic st) (bs : List Byte)
    (hl : st.hdrCnt.toNat + bs.length ≤ 12) :
    Heading magic { st with
      hdr := writeCells st.hdr st.hdrCnt.toNat bs, hdrCnt := BitVec.ofNat 4 (st.hdrCnt.toNat + bs.length) } ∧
      (BitVec.ofNat 4 (st.hdrCnt.toNat + bs.length)).toNat = st.hdrCnt.toNat + bs.length := by
  have hcnt : (BitVec.ofNat 4 (st.hdrCnt.toNat + bs.length)).toNat = st.hdrCnt.toNat + bs.length := by
    rw [BitVec.toNat_ofNat, Nat.mod_eq_of_lt (by omega)]
  refine ⟨⟨h.state, ?_, ?_, ?_, h.half, h.left, h.off⟩, hcnt⟩
  · rw [hcnt]
    exact h.hdr.append bs
  · rw [hcnt]
    exact Nat.le_trans h.begun (Nat.le_add_right _ _)
  · rw [hdrHalf_zero_append _ h.begun, h.magic]

/-- Sound parser registers in `ReadingData` (R44 (c), (k)). -/
theorem ParserInv.inPayload {magic : Half} {st : Stream} (h : ParserInv magic st) (hp : st.pstate = .readingData) :
    InPayload magic st ∧ 1 ≤ st.dataLeft.toNat := by
  obtain ⟨hdr, -, -, hhalf, -, -, -, hdata⟩ := h
  obtain ⟨hcnt, hleft, hbound, hsize, hmagic⟩ := hdata hp
  exact ⟨⟨hp, hdr, hcnt, hmagic, hhalf (by simp [hp]), hbound, hsize⟩, hleft⟩

theorem InPayload.parserInv {magic : Half} {st : Stream} (h : InPayload magic st) (hi : st.ignLeft = 0)
    (hl : 1 ≤ st.dataLeft.toNat) : ParserInv magic st := by
  have hp := h.state
  exact ⟨h.hdr, fun _ => hi, by simp [hp], fun _ => h.half, by simp [hp], by simp [hp], by simp [hp],
    fun _ => ⟨h.count, hl, h.bound, h.size, h.magic⟩⟩

/-- What is read of a payload goes from `DATA_LEFT` to `DATA_OFF` (R44 (k), R175). -/
theorem InPayload.consumes {magic : Half} {st : Stream} (h : InPayload magic st) {k : Nat} (hk : k ≤ st.dataLeft.toNat) :
    InPayload magic { st with
      dataOff := BitVec.ofNat 16 (st.dataOff.toNat + k), dataLeft := BitVec.ofNat 16 (st.dataLeft.toNat - k) } ∧
      (BitVec.ofNat 16 (st.dataLeft.toNat - k)).toNat = st.dataLeft.toNat - k := by
  have hbound := h.bound
  have htoNat {n : Nat} (hn : n < 65536) : (BitVec.ofNat 16 n).toNat = n := by
    rw [BitVec.toNat_ofNat, Nat.mod_eq_of_lt hn]
  have hleft := htoNat (show st.dataLeft.toNat - k < 65536 by omega)
  have hoff := htoNat (show st.dataOff.toNat + k < 65536 by omega)
  refine ⟨⟨h.state, h.hdr, h.count, h.magic, h.half, ?_, h.size.trans (congrArg some (BitVec.eq_of_toNat_eq ?_))⟩, hleft⟩
  · rw [hleft, hoff]
    omega
  · rw [BitVec.toNat_add, BitVec.toNat_add, hleft, hoff]
    congr 1
    omega

theorem prLosschk_frameInv {v : RdCtx} (h : Header) (hf : FrameInv v.cfg v.st) : FrameInv v.cfg (prLosschk v h).2.st := by
  unfold prLosschk
  dsimp only
  split <;> exact hf

/-- `PR.PKTSTART` before the packet's time leaves sound frame registers (R177). -/
theorem packetBegun_frameInv {v : RdCtx} (h : Header) (hc : cfgLegal v.cfg = true) (hf : FrameInv v.cfg v.st)
    (ha : v.st.pstate ≠ .awaitingConfiguration) : FrameInv v.cfg (v.packetBegun h).st := by
  let u := v.emit (.diagPacket v.sid h.type h.seq h.size h.ts)
  have hchecked : Frames v (prLosschk u h).2 := ((Frames.refl v).emit _).trans (prLosschk_frames u h)
  have harmed {w : RdCtx} (hw : Frames v w) : w.st.pstate ≠ .awaitingConfiguration := by
    rw [hw.record]
    exact ha
  unfold RdCtx.packetBegun
  dsimp only
  split
  · refine lossFlags_frameInv ?_ (harmed (hchecked.trans (prSof_frames _ h))) _ _
    rw [← hchecked.cfg] at hc ⊢
    exact prSof_frameInv h hc (harmed hchecked)
  · exact lossFlags_frameInv (prLosschk_frameInv (v := u) h hf) (harmed hchecked) _ _

/-- How far a packet's start comes: to its end, or to a wait of its time. -/
def Starts (b : Bool) (v : RdCtx) : Run Unit → Prop
  | .done _ u => Headed b u ∧ Clocked u ∧ Shares v u ∧ u.st.hdr = v.st.hdr
  | .wait w u => Headed b u ∧ Stalled w u ∧ Shares v u

theorem Starts.after {b : Bool} {v u : RdCtx} {r : Run Unit} (h : Frames v u) (hr : Starts b u r) : Starts b v r := by
  cases r with
  | done a w => exact ⟨hr.1, hr.2.1, h.shares.trans hr.2.2.1, hr.2.2.2.trans h.hdr⟩
  | wait t w => exact ⟨hr.1, hr.2.1, h.shares.trans hr.2.2⟩

/-- The time of a packet given, the stream is still at its header (R182). -/
theorem Headed.timed {b : Bool} {u : RdCtx} (hh : Headed b u) (h : Header) (us : Micros) : Headed b (prTimed u h us) :=
  have hf := prTimed_frames u h us
  ⟨hh.toArmed.frames hf hh.frame, hh.whole.frames hf⟩

theorem prTime_starts {b : Bool} {v : RdCtx} (h : Header) (hh : Headed b v) (hc : Clocked v) :
    Sure (prTime v h) (Starts b v) := by
  refine ((csBegin_comes (timeOp_convertible v.cfg v.st h) hc).and (csBegin_converts _ v)).bind fun r ⟨hr, hconv⟩ => ?_
  have hhead : Headed b r.ctx := ⟨hh.toArmed.converts hconv, hh.whole.converts hconv⟩
  cases r with
  | wait w u => exact sure_ok ⟨hhead, hr.2⟩
  | done us u =>
    have hf := prTimed_frames u h us
    exact sure_ok ⟨hhead.timed h us, hr.1.frames hf, hr.2.trans hf.shares, hf.hdr.trans hconv.hdr⟩

theorem packetStart_starts {b : Bool} {v : RdCtx} (h : Header) (hh : Headed b v) (hc : Clocked v) :
    Sure (packetStart v h) (Starts b v) := by
  have hf := packetBegun_frames v h
  have hbegun : Headed b (v.packetBegun h) :=
    ⟨hh.toArmed.frames hf (packetBegun_frameInv h hh.cfg hh.frame hh.armed), hh.whole.frames hf⟩
  rw [packetStart_eq]
  split
  · exact sure_ok ⟨hbegun, hc.frames hf, hf.shares, hf.hdr⟩
  · exact (prTime_starts h hbegun (hc.frames hf)).mono fun _ => .after hf

/-! ### The end of a packet -/

/-- The parser back at the magic has sound registers (R176). -/
theorem parserReset_parserInv (magic : Half) {st : Stream} (hi : st.ignLeft = 0) :
    ParserInv magic (parserReset st .seekingMagic) :=
  ⟨rfl, fun _ => hi, nofun, fun h => absurd rfl h, fun _ _ => rfl, nofun, fun _ => ⟨rfl, rfl⟩, nofun⟩

/-- A packet's end leaves the stream at the next magic (R176). -/
theorem packetEnd_sure {b : Bool} {v : RdCtx} (h : Header) (ha : Armed b v) (hc : Clocked v) :
    Sure (packetEnd v h) fun u => InChunk b u ∧ Shares v u := by
  have hend (u : RdCtx) (hu : Armed b u) (hf : Frames v u) :
      InChunk b { u with st := parserReset u.st .seekingMagic } ∧
        Shares v { u with st := parserReset u.st .seekingMagic } := by
    obtain ⟨hlock, hsync, href⟩ := hc.frames hf
    exact ⟨⟨hu.cfg, ⟨hlock, hsync, href⟩, parserReset_parserInv _ hu.ignLeft, hu.frame.parses (by decide) _ _ _ _ _ _,
      hu.guard.parses hu.armed _ _ _ _ _ _ _, hu.job, hu.lock⟩, hf.shares.record _⟩
  unfold packetEnd
  dsimp only
  split
  · exact ((prEof_sure ha.cfg ha.frame ha.armed).and (prEof_frames v)).bind fun u ⟨hi, hf⟩ =>
      sure_ok (hend u (ha.frames hf hi) hf)
  · exact sure_ok (hend v ha (.refl v))

/-- The end of a header leaves the stream in the packet's payload, or at the next magic (R174). -/
theorem headerTail_sure {b : Bool} {v : RdCtx} {h : Header} (hh : Headed b v) (hc : Clocked v)
    (hs : hdrHalf v.st.hdr 6 = some h.size) : Sure (headerTail v h) fun u => InChunk b u ∧ Shares v u := by
  unfold headerTail
  split
  · exact packetEnd_sure h hh.toArmed hc
  · rename_i h0
    have hpos : 1 ≤ h.size.toNat := Nat.one_le_iff_ne_zero.mpr fun hz => h0 (BitVec.eq_of_toNat_eq hz)
    have hpayload : InPayload v.cap.magicD2H { v.st with dataLeft := h.size, dataOff := 0, pstate := .readingData } :=
      ⟨rfl, hh.whole.hdr, hh.whole.count, hh.whole.magic, hh.whole.half, by simpa using h.size.isLt,
        hs.trans (congrArg some (BitVec.zero_add h.size).symm)⟩
    exact sure_ok ⟨⟨hh.cfg, ⟨hc.lock, hc.sync, hc.ref⟩, hpayload.parserInv hh.ignLeft hpos,
      hh.frame.parses (by decide) _ _ _ _ _ _, hh.guard.parses hh.armed _ _ _ _ _ _ _, hh.job, hh.lock⟩,
      (Shares.refl v).record _⟩

/-! ### A round of a chunk -/

/-- How far a round of a chunk comes: to its end, or to a wait of a packet's time. -/
def Goes (b : Bool) (v : RdCtx) : Run Unit → Prop
  | .done _ u => InChunk b u ∧ Shares v u
  | .wait w u => Headed b u ∧ Stalled w u ∧ Shares v u

theorem Goes.after {b : Bool} {v u : RdCtx} {r : Run Unit} (h : Shares v u) (hr : Goes b u r) : Goes b v r := by
  cases r with
  | done a w => exact ⟨hr.1, h.trans hr.2⟩
  | wait t w => exact ⟨hr.1, hr.2.1, h.trans hr.2.2⟩

/-- From a whole header on (R174, R177). -/
theorem headerComplete_goes {b : Bool} {v : RdCtx} (hh : Headed b v) (hc : Clocked v) :
    Sure (headerComplete v) (Goes b v) := by
  obtain ⟨h, hread, hsize⟩ := readHeader_whole hh.whole.cells
  unfold headerComplete
  rw [hread]
  refine (packetStart_starts h hh hc).bind fun r hr => ?_
  cases r with
  | wait w u => exact sure_ok hr
  | done a u =>
    obtain ⟨hu, hclk, hshare, hhdr⟩ := hr
    refine (headerTail_sure (h := h) hu hclk ?_).bind fun w ⟨hw, hs⟩ => sure_ok ⟨hw, hshare.trans hs⟩
    rw [hhdr]
    exact hsize

/-- The guards of an armed stream: a codec with a meaning, and a table that is whole where it is used (R21, R162, R163). -/
theorem GuardInv.codec {cfg : Cfg} {b : Bool} {st : Stream} (h : GuardInv cfg b st)
    (ha : st.pstate ≠ .awaitingConfiguration) :
    st.conf.codec ≠ .xform ∧ (st.conf.codec = .pass ∨ TableReady cfg st) := by
  obtain ⟨hconf, hready, hwhole, -⟩ := h
  obtain ⟨-, hvalid, huse⟩ := hready ha
  obtain ⟨hlegal, -⟩ := hconf hvalid
  simp only [configLegal, Bool.and_eq_true, decide_eq_true_eq] at hlegal
  obtain ⟨⟨⟨⟨-, hx⟩, -⟩, -⟩, -⟩ := hlegal
  exact ⟨hx, huse.imp_right (.imp_right fun hcal => (hwhole hcal).1)⟩

/-- A round in `ReadingHeader` (R174). -/
theorem prHdr_goes {b : Bool} {v : RdCtx} (rest : List Byte) (h : InChunk b v) (hp : v.st.pstate = .readingHeader)
    (hb : rest ≠ []) : Sure (prHdr v rest) fun p => 1 ≤ p.1 ∧ Goes b v p.2 := by
  have ha : v.st.pstate ≠ .awaitingConfiguration := by simp [hp]
  have hign := (h.armed ha (by simp [hp])).ignLeft
  have houtside : v.st.inChunk = false := by simp [Stream.inChunk, h.job]
  obtain ⟨hhead, h11⟩ := h.parser.heading hp houtside
  have hlen : 1 ≤ rest.length := List.length_pos_iff.mpr hb
  have hclocked := h.clocked
  unfold prHdr
  dsimp only
  generalize hk : min rest.length (Config.hdrSize - v.st.hdrCnt.toNat) = k
  have hk : min rest.length (12 - v.st.hdrCnt.toNat) = k := hk
  have hgrown := hhead.grows (rest.take k) (by rw [List.length_take]; omega)
  rw [List.length_take, Nat.min_eq_left (by omega)] at hgrown
  obtain ⟨hgrown, hcnt⟩ := hgrown
  have hframe := h.frame.parses ha v.st.ignLeft v.st.magicHalf (BitVec.ofNat 4 (v.st.hdrCnt.toNat + k)) v.st.dataLeft
    v.st.dataOff (writeCells v.st.hdr v.st.hdrCnt.toNat (rest.take k))
  have hguard := h.guard.parses ha v.st.pstate v.st.ignLeft v.st.magicHalf (BitVec.ofNat 4 (v.st.hdrCnt.toNat + k))
    v.st.dataLeft v.st.dataOff (writeCells v.st.hdr v.st.hdrCnt.toNat (rest.take k))
  split
  · rename_i hfull
    refine Sure.bind (headerComplete_goes (b := b) ⟨⟨h.cfg, hframe, hguard, ha, hign, h.job, h.lock⟩, hgrown, ?_⟩
      ⟨hclocked.lock, hclocked.sync, hclocked.ref⟩) fun r hr =>
        sure_ok ⟨by omega, hr.after ((Shares.refl v).record _)⟩
    exact BitVec.eq_of_toNat_eq (hcnt.trans hfull)
  · rename_i hpart
    have hpart : v.st.hdrCnt.toNat + k ≠ 12 := hpart
    exact sure_ok ⟨by omega, ⟨h.cfg, ⟨hclocked.lock, hclocked.sync, hclocked.ref⟩,
      hgrown.parserInv hign houtside (by rw [hcnt]; omega), hframe, hguard, h.job, h.lock⟩, (Shares.refl v).record _⟩

/-- The end of a packet reads its header (R176). -/
theorem prPktend_sure {b : Bool} {v : RdCtx} (ha : Armed b v) (hc : Clocked v) (hh : Holds v.st.hdr 12) :
    Sure (prPktend v) fun u => InChunk b u ∧ Shares v u := by
  obtain ⟨hd, hread, -⟩ := readHeader_whole hh
  unfold prPktend
  rw [hread]
  exact packetEnd_sure hd ha hc

/-- A round in `ReadingData` (R175). -/
theorem prData_goes {b : Bool} {v : RdCtx} (rest : List Byte) (h : InChunk b v) (hp : v.st.pstate = .readingData)
    (hb : rest ≠ []) : Sure (prData v rest) fun p => 1 ≤ p.1 ∧ InChunk b p.2 ∧ Shares v p.2 := by
  have ha : v.st.pstate ≠ .awaitingConfiguration := by simp [hp]
  have harmed := h.armed ha (by simp [hp])
  obtain ⟨hx, htable⟩ := h.guard.codec ha
  obtain ⟨hpayload, hleft⟩ := h.parser.inPayload hp
  have hlen : 1 ≤ rest.length := List.length_pos_iff.mpr hb
  unfold prData
  dsimp only
  generalize hk : min rest.length v.st.dataLeft.toNat = k
  refine ((prPiece_sure (rest.take k) h.cfg h.frame ha htable hx).and (prPiece_frames v _)).bind fun u ⟨hi, hf⟩ => ?_
  have hu := harmed.frames hf hi
  obtain ⟨hlock, hsync, href⟩ := h.clocked.frames hf
  have hsame : u.st.dataLeft = v.st.dataLeft := by rw [hf.record]
  rw [← hsame] at hk hleft
  obtain ⟨hrest, hcnt⟩ := (hpayload.frames hf).consumes (k := k) (by omega)
  have hframe := hu.frame.parses hu.armed u.st.ignLeft u.st.magicHalf u.st.hdrCnt
    (BitVec.ofNat 16 (u.st.dataLeft.toNat - k)) (BitVec.ofNat 16 (u.st.dataOff.toNat + k)) u.st.hdr
  have hguard := hu.guard.parses hu.armed u.st.pstate u.st.ignLeft u.st.magicHalf u.st.hdrCnt
    (BitVec.ofNat 16 (u.st.dataLeft.toNat - k)) (BitVec.ofNat 16 (u.st.dataOff.toNat + k)) u.st.hdr
  have hshares := hf.shares.record { u.st with
    dataOff := BitVec.ofNat 16 (u.st.dataOff.toNat + k), dataLeft := BitVec.ofNat 16 (u.st.dataLeft.toNat - k) }
  split
  · exact Sure.bind (prPktend_sure (b := b) ⟨hu.cfg, hframe, hguard, hu.armed, hu.ignLeft, hu.job, hu.lock⟩
      ⟨hlock, hsync, href⟩ hrest.cells) fun w ⟨hw, hs⟩ => sure_ok ⟨by omega, hw, hshares.trans hs⟩
  · exact sure_ok ⟨by omega, ⟨hu.cfg, ⟨hlock, hsync, href⟩, hrest.parserInv hu.ignLeft (by rw [hcnt]; omega), hframe, hguard,
      hu.job, hu.lock⟩, hshares⟩

/-- A round in `IgnoringGarbage` (R172). -/
theorem prIgnore_goes {b : Bool} {v : RdCtx} (rest : List Byte) (h : InChunk b v) (hp : v.st.pstate = .ignoringGarbage)
    (hb : rest ≠ []) : 1 ≤ (prIgnore v rest).1 ∧ InChunk b (prIgnore v rest).2 ∧ Shares v (prIgnore v rest).2 := by
  have ha : v.st.pstate ≠ .awaitingConfiguration := by simp [hp]
  obtain ⟨hholds, -, hpos, hhalf, hcnt, -, hdata, -⟩ := h.parser
  have hpos := hpos hp
  have hlen : 1 ≤ rest.length := List.length_pos_iff.mpr hb
  have hclocked := h.clocked
  have hcnt := hcnt (by simp [hp]) (by simp [hp])
  unfold prIgnore
  dsimp only
  generalize hk : min rest.length v.st.ignLeft.toNat = k
  have hleft : (BitVec.ofNat 32 (v.st.ignLeft.toNat - k)).toNat = v.st.ignLeft.toNat - k := by
    have := v.st.ignLeft.isLt
    rw [BitVec.toNat_ofNat, Nat.mod_eq_of_lt (by omega)]
  refine ⟨by omega, ⟨h.cfg, ⟨hclocked.lock, hclocked.sync, hclocked.ref⟩, ?_, ?_, h.guard.parses ha _ _ _ _ _ _ _, h.job,
    h.lock⟩, (Shares.refl v).record _⟩
  · by_cases h0 : v.st.ignLeft.toNat - k = 0
    · rw [h0]
      exact ⟨hholds, fun _ => rfl, nofun, fun h => absurd rfl h, fun _ _ => hcnt, nofun, fun _ => hdata (by simp [hp]),
        nofun⟩
    · rw [if_neg h0, hp]
      exact ⟨hholds, fun h => absurd rfl h, fun _ => by rw [hleft]; omega, fun _ => hhalf (by simp [hp]), fun _ _ => hcnt,
        nofun, fun _ => hdata (by simp [hp]), nofun⟩
  · exact h.frame.parses (by split <;> simp [hp]) _ _ _ _ _ _

/-- The two magic bytes are a header's first cells (R173, R128). -/
theorem hdrHalf_magic (cap : Cap) : hdrHalf (tableCells 0 [magicLo cap, magicHi cap]) 0 = some cap.magicD2H := by
  simp [hdrHalf, readCell_tableCells, magicLo, magicHi]

/-- A round in `SeekingMagic` (R173). -/
theorem prSeek_goes {b : Bool} {v : RdCtx} (x : Byte) (h : InChunk b v) (hp : v.st.pstate = .seekingMagic) :
    1 ≤ (prSeek v x).1 ∧ InChunk b (prSeek v x).2 ∧ Shares v (prSeek v x).2 := by
  have ha : v.st.pstate ≠ .awaitingConfiguration := by simp [hp]
  have houtside : v.st.inChunk = false := by simp [Stream.inChunk, h.job]
  obtain ⟨hholds, hign, -, -, hcnt, -, hdata, -⟩ := h.parser
  have hign := hign (by simp [hp])
  have hcnt := hcnt (by simp [hp]) (by simp [hp])
  have hdata := hdata (by simp [hp])
  have hclocked := h.clocked
  have hempty : v.st.hdr = [] := by
    rw [hcnt] at hholds
    exact List.map_eq_nil_iff.mp hholds
  unfold prSeek
  split
  · refine ⟨Nat.le_refl 1, ⟨h.cfg, ⟨hclocked.lock, hclocked.sync, hclocked.ref⟩, ?_, h.frame.parses (by decide) _ _ _ _ _ _,
      h.guard.parses ha _ _ _ _ _ _ _, h.job, h.lock⟩, (Shares.refl v).record _⟩
    rw [hempty, writeCells_nil_zero]
    exact ⟨tableCells_holds _, fun _ => hign, nofun, fun _ => rfl, fun h => absurd rfl h,
      fun _ => ⟨hdrHalf_magic v.cap, fun _ => ⟨Nat.le_refl 2, show (2 : Nat) ≤ 11 by omega⟩,
        fun hin => absurd (houtside.symm.trans hin) (by decide)⟩, fun _ => hdata, nofun⟩
  · refine ⟨Nat.le_refl 1, ⟨h.cfg, ⟨hclocked.lock, hclocked.sync, hclocked.ref⟩, ?_, h.frame.parses ha _ _ _ _ _ _,
      h.guard.parses ha _ _ _ _ _ _ _, h.job, h.lock⟩, (Shares.refl v).record _⟩
    exact ⟨hholds, fun _ => hign, fun h => absurd (hp.symm.trans h) (by decide), fun h => absurd hp h, fun _ _ => hcnt,
      fun h => absurd (hp.symm.trans h) (by decide), fun _ => hdata, fun h => absurd (hp.symm.trans h) (by decide)⟩

/-- Every round of a chunk consumes a byte, and leaves the stream sound (R170). -/
theorem chunkRound_goes {b : Bool} {v : RdCtx} (rest : List Byte) (h : InChunk b v) (hb : rest ≠ []) :
    Sure (chunkRound v rest) fun p => 1 ≤ p.1 ∧ Goes b v p.2 := by
  unfold chunkRound
  split
  · exact sure_ok ⟨List.length_pos_iff.mpr hb, h, .refl v⟩
  · rename_i hp
    exact sure_ok (prIgnore_goes rest h hp hb)
  · rename_i hp
    cases rest with
    | nil => exact absurd rfl hb
    | cons x xs => exact sure_ok (prSeek_goes x h hp)
  · rename_i hp
    exact prHdr_goes rest h hp hb
  · rename_i hp
    exact (prData_goes rest h hp hb).bind fun p hd => sure_ok hd

/-! ### A whole chunk -/

/-- How a chunk ends: every byte consumed, or with the time of a packet that waits (R18, R170). -/
def Consumes (b : Bool) (v u : RdCtx) : Prop :=
  (InChunk b u ∧ Shares v u) ∨
    ∃ t w rest, Headed b w ∧ Stalled t w ∧ Shares v w ∧ u = w.park t (.parser (.chunk rest))

theorem Consumes.after {b : Bool} {v u w : RdCtx} (h : Shares v u) (hc : Consumes b u w) : Consumes b v w := by
  obtain ⟨hin, hs⟩ | ⟨t, x, rest, hhead, hstall, hs, rfl⟩ := hc
  · exact .inl ⟨hin, h.trans hs⟩
  · exact .inr ⟨t, x, rest, hhead, hstall, h.trans hs, rfl⟩

theorem chunkLoop_consumes {b : Bool} (fuel : Nat) : ∀ (v : RdCtx) (bytes : List Byte), bytes.length ≤ fuel → InChunk b v →
    Sure (chunkLoop fuel v bytes) (Consumes b v) := by
  induction fuel with
  | zero =>
    intro v bytes hl h
    cases bytes with
    | nil => exact sure_ok (.inl ⟨h, .refl v⟩)
    | cons x xs => exact absurd hl (Nat.not_succ_le_zero _)
  | succ fuel ih =>
    intro v bytes hl h
    cases bytes with
    | nil => exact sure_ok (.inl ⟨h, .refl v⟩)
    | cons x xs =>
      refine (chunkRound_goes (x :: xs) h (by simp)).bind fun (k, r) ⟨hk, hr⟩ => ?_
      dsimp only at hk hr ⊢
      rw [if_neg (by omega)]
      cases r with
      | wait w u =>
        obtain ⟨hhead, hstall, hs⟩ := hr
        exact sure_ok (.inr ⟨w, u, _, hhead, hstall, hs, rfl⟩)
      | done a u =>
        obtain ⟨hu, hs⟩ := hr
        have hrest : ((x :: xs).drop k).length ≤ fuel := by
          rw [List.length_drop]
          omega
        exact (ih u _ hrest hu).mono fun _ => .after hs

end Sys2Proof.Machine
end

section
/-! PROOFS. A sound stream as its operations see it, and a sound state after one of them: the other streams and the connection
stay sound (R20, R29, R44 (i), (j), R72, R75). -/

namespace Sys2Proof.Machine

/-! ### The view of a sound stream -/

/-- The view with what the reader agent's operation waits at taken off. -/
def RdCtx.freed (v : RdCtx) : RdCtx := { v with st := { v.st with job := none } }

/-- The view of a stream outside any chunk. -/
structure Still (b : Bool) (v : RdCtx) : Prop where
  cfg : cfgLegal v.cfg = true
  parser : ParserInv v.cap.magicD2H v.st
  frame : FrameInv v.cfg v.st
  guard : GuardInv v.cfg b v.st
  job : v.st.job = none
  lock : v.st.lock = none

/-- The view of a sound stream: nothing waits, or a conversion an agent asked for, or a chunk at its packet's time. -/
inductive SoundView (b : Bool) (v : RdCtx) : Prop where
  | idle (still : Still b v) (clocked : Clocked v)
  | asked (w : TimeWait) (job : v.st.job = some ⟨w, .asked (some (.rd v.sid))⟩) (still : Still b v.freed)
      (stalled : Stalled w v.freed)
  | chunk (w : TimeWait) (rest : List Byte) (job : v.st.job = some ⟨w, .parser (.chunk rest)⟩) (headed : Headed b v.freed)
      (stalled : Stalled w v.freed)

theorem RdCtx.freed_of_none {v : RdCtx} (h : v.st.job = none) : v.freed = v := by
  obtain ⟨sid, cfg, cap, ref, clkLock, st, io⟩ := v
  have h : st.job = none := h
  rw [RdCtx.freed, ← h]

theorem RdCtx.freed_park {v : RdCtx} (h : v.st.job = none) (w : TimeWait) (u : TimeUser) : (v.park w u).freed = v :=
  RdCtx.freed_of_none (v := v) h

theorem InChunk.still {b : Bool} {v : RdCtx} (h : InChunk b v) : Still b v.unlock :=
  have houtside : v.st.inChunk = false := by simp [Stream.inChunk, h.job]
  have hparser : ParserInv v.cap.magicD2H v.st := h.parser
  ⟨h.cfg, by simpa only [ParserInv, Stream.inChunk, RdCtx.unlock] using hparser, h.frame, h.guard, h.job, rfl⟩

/-- Before its chunk begins, a stream under its agent's lock (R75). -/
theorem Still.inChunk {b : Bool} {v : RdCtx} (h : Still b v) (hc : Clocked v) : InChunk b (v.lock (.rd v.sid)) :=
  ⟨h.cfg, ⟨hc.lock, hc.sync, hc.ref⟩, by simpa only [ParserInv, Stream.inChunk, RdCtx.lock] using h.parser, h.frame, h.guard,
    h.job, rfl⟩

theorem Still.converts {b : Bool} {v u : RdCtx} (h : Still b v) (hc : Converts v u) : Still b u := by
  refine ⟨hc.cfg ▸ h.cfg, ?_, ?_, ?_, ?_, ?_⟩
  · rw [hc.cap, hc.record]
    exact h.parser
  · rw [hc.cfg, hc.record]
    exact h.frame
  · rw [hc.cfg, hc.record]
    exact h.guard
  · rw [hc.record]
    exact h.job
  · rw [hc.record]
    exact h.lock

/-- Where a sound stream has a reference, or waits past one, it lies within the clocks. -/
theorem SoundView.refFits {b : Bool} {v : RdCtx} (h : SoundView b v)
    (hr : v.ref.valid = true ∨ v.st.pastReference = true) : v.refFits := by
  have hpast {w : TimeWait} {u : TimeUser} (hj : v.st.job = some ⟨w, u⟩) (hw : Stalled w v.freed) : v.refFits := by
    obtain hv | hp := hr
    · exact hw.ref hv
    · simp only [Stream.pastReference, hj, decide_eq_true_eq] at hp
      exact (hw.after hp).2
  cases h with
  | idle still clocked =>
    refine clocked.ref (hr.resolve_right ?_)
    simp [Stream.pastReference, still.job]
  | asked w job still stalled => exact hpast job stalled
  | chunk w rest job headed stalled => exact hpast job stalled

/-! ### From a sound state to the view, and back -/

/-- The locks of a conversion that waits, as `waitSound` has them (R72, R74, R211). -/
theorem waitSound_iff {s : State} {sid : Nat} {w : TimeWait} : waitSound s sid w = true ↔
    Convertible s.cfg w.op ∧ (w.op = .tohost 0 → w.stage = .clock) ∧
      (w.stage = .lock → s.clkLock ≠ some (.rd sid)) ∧
      (w.stage = .reference → s.clkLock = some (.rd sid) ∧ s.ref.valid = false) ∧
      (w.stage = .clock → s.clkLock ≠ some (.rd sid)) := by
  obtain ⟨op, stage⟩ := w
  simp only [waitSound, Bool.and_eq_true, decide_eq_true_eq]
  constructor
  · rintro ⟨⟨ht, ho⟩, hs⟩
    refine ⟨⟨?_, ht⟩, ?_, ?_, ?_, ?_⟩
    · cases op <;> simp_all [TimeOp.asks]
    · rintro rfl
      simpa using ho
    all_goals
      rintro rfl
      simpa using hs
  · rintro ⟨⟨ha, ht⟩, h0, hl, hr, hc⟩
    refine ⟨⟨ht, ?_⟩, ?_⟩
    · cases op with
      | tohost tick =>
        by_cases hz : tick = 0
        · simp [h0 (by rw [hz])]
        · exact (Bool.or_eq_true _ _).mpr (.inr (decide_eq_true hz))
      | hostonly => rfl
      | establish tick => cases ha
      | init tick => cases ha
    · cases stage with
      | lock => simpa using hl rfl
      | reference => simpa using hr rfl
      | clock => simpa using hc rfl

/-- Where nothing of the reader agent is in flight both locks are free of it (R75). -/
theorem jobSound_none {s : State} {sid : Nat} {st : Stream} (hj : st.job = none) :
    jobSound s sid st = true ↔ st.lock = none ∧ s.clkLock ≠ some (.rd sid) := by
  simp [jobSound, hj]

theorem jobSound_some {s : State} {sid : Nat} {st : Stream} {j : Job} (hj : st.job = some j) :
    jobSound s sid st = true ↔ waitSound s sid j.wait = true ∧ userSound sid st j.user = true := by
  simp [jobSound, hj]

/-- A conversion waits inside `CS.INIT` where it is past its reference and no `CS.HOSTONLY`. -/
theorem initializing_iff {st : Stream} {w : TimeWait} {u : TimeUser} (hj : st.job = some ⟨w, u⟩) :
    st.initializing = false ↔ (w.stage ≠ .clock ∨ w.op = .hostonly) := by
  by_cases hs : w.stage = .clock <;> by_cases ho : w.op = .hostonly <;>
    simp [Stream.initializing, Stream.pastReference, hj, hs, ho]

section View

variable {s : State} {sid : Nat} {st : Stream}

/-- A stream that is waited with, as the view without its job. -/
theorem stalled_of_inv {w : TimeWait} {u : TimeUser} (h : Inv s) (hs : s.streams[sid]? = some st)
    (hj : st.job = some ⟨w, u⟩) (hw : waitSound s sid w = true) : Stalled w (s.ctx sid st).freed := by
  obtain ⟨hop, hzero, hlock, href, hclock⟩ := waitSound_iff.mp hw
  have hsync := (h.streams sid st hs).sync
  have hpast (hc : w.stage = .clock) : (s.ctx sid st).freed.refFits :=
    h.refHost (.inr ⟨st, List.mem_of_getElem? hs, by simp [Stream.pastReference, hj, hc]⟩)
  exact ⟨hop, hzero, hlock, href, fun hc => ⟨hclock hc, hpast hc⟩, fun hv => h.refHost (.inl hv), fun hf => (hsync hf).1,
    fun hi hf => ⟨(hsync hf).1, (hsync hf).2 ((initializing_iff hj).mpr hi)⟩⟩

/-- A stream of a sound state, outside any chunk. -/
theorem still_of_inv (h : Inv s) (hs : s.streams[sid]? = some st) (hl : st.lock = none) (hc : st.inChunk = false) :
    Still s.capValid (s.ctx sid st).freed := by
  have hst := h.streams sid st hs
  refine ⟨h.cfg, ?_, hst.frame, hst.guard, rfl, hl⟩
  have hparser := hst.parser
  rw [ParserInv, hc] at hparser
  exact hparser

/-- A stream of a sound state that waits inside a chunk is at a whole header. -/
theorem headed_of_inv {w : TimeWait} {rest : List Byte} (h : Inv s) (hs : s.streams[sid]? = some st)
    (hj : st.job = some ⟨w, .parser (.chunk rest)⟩) (hl : st.lock = some (.rd sid)) (hp : st.pstate = .readingHeader) :
    Headed s.capValid (s.ctx sid st).freed := by
  have hst := h.streams sid st hs
  obtain ⟨hholds, hign, -, hhalf, -, hhdr, hdata, -⟩ := hst.parser
  obtain ⟨hmagic, -, hcount⟩ := hhdr hp
  have hcount := hcount (by simp [Stream.inChunk, hj])
  obtain ⟨hleft, hoff⟩ := hdata (by simp [hp])
  exact ⟨⟨h.cfg, hst.frame, hst.guard, by simp [RdCtx.freed, State.ctx, hp], hign (by simp [hp]), rfl, hl⟩,
    ⟨hp, hholds, by simp [RdCtx.freed, State.ctx, hcount], hmagic, hhalf (by simp [hp]), hleft, hoff⟩, hcount⟩

theorem soundView_of_inv (h : Inv s) (hs : s.streams[sid]? = some st) : SoundView s.capValid (s.ctx sid st) := by
  have hst := h.streams sid st hs
  cases hj : st.job with
  | none =>
    obtain ⟨hl, hc⟩ := (jobSound_none hj).mp hst.job
    have hstill := still_of_inv h hs hl (by simp [Stream.inChunk, hj])
    rw [RdCtx.freed_of_none (v := s.ctx sid st) hj] at hstill
    have hsettled : st.initializing = false := by simp [Stream.initializing, hj]
    exact .idle hstill ⟨hc, fun hf => ⟨(hst.sync hf).1, (hst.sync hf).2 hsettled⟩, fun hv => h.refHost (.inl hv)⟩
  | some j =>
    obtain ⟨w, u⟩ := j
    obtain ⟨hw, hu⟩ := (jobSound_some hj).mp hst.job
    have hstalled := stalled_of_inv h hs hj hw
    have hu : userSound sid st u = true := hu
    unfold userSound at hu
    split at hu
    · simp only [Bool.and_eq_true, decide_eq_true_eq] at hu
      obtain ⟨rfl, hl⟩ := hu
      exact .asked w hj (still_of_inv h hs hl (by simp [Stream.inChunk, hj])) hstalled
    · cases hu
    · simp only [Bool.and_eq_true, decide_eq_true_eq] at hu
      obtain ⟨hl, hp⟩ := hu
      exact .chunk w _ hj (headed_of_inv h hs hj hl hp) hstalled
    · cases hu
    · cases hu

end View

section Back

variable {b : Bool} {v : RdCtx} {t : State}

/-- The synchronizer registers of a stream whose conversion waits. -/
theorem Stalled.syncInv {w : TimeWait} {u : TimeUser} (hw : Stalled w v.freed) (hj : v.st.job = some ⟨w, u⟩) :
    SyncInv v.cfg v.ref v.st := fun hf =>
  ⟨hw.first hf, fun hi => (hw.sync ((initializing_iff hj).mp hi) hf).2⟩

/-- The stream of a view with a conversion that waits is a sound record. -/
theorem SoundView.streamInv (h : SoundView b v) (hcfg : t.cfg = v.cfg) (hcap : t.cap = v.cap) (hb : t.capValid = b)
    (href : t.ref = v.ref) (hlock : t.clkLock = v.clkLock) : StreamInv t v.sid v.st := by
  have hwait {w : TimeWait} (hw : Stalled w v.freed) : waitSound t v.sid w = true := by
    rw [waitSound_iff, hcfg, hlock, href]
    exact ⟨hw.op, hw.zero, hw.before, hw.inside, fun hc => (hw.after hc).1⟩
  subst hb
  cases h with
  | idle still clocked =>
    refine ⟨?_, hcap ▸ still.parser, hcfg ▸ still.frame, ?_, hcfg ▸ still.guard⟩
    · exact (jobSound_none still.job).mpr ⟨still.lock, hlock ▸ clocked.lock⟩
    · rw [hcfg, href]
      exact fun hf => ⟨(clocked.sync hf).1, fun _ => (clocked.sync hf).2⟩
  | asked w job still stalled =>
    have houtside : v.st.inChunk = false := by simp [Stream.inChunk, job]
    have hfree : v.st.lock = none := still.lock
    refine ⟨?_, ?_, hcfg ▸ still.frame, by rw [hcfg, href]; exact stalled.syncInv job, hcfg ▸ still.guard⟩
    · exact (jobSound_some job).mpr ⟨hwait stalled, by simp [userSound, hfree]⟩
    · rw [hcap]
      rw [ParserInv, houtside]
      exact still.parser
  | chunk w rest job headed stalled =>
    have hinside : v.st.inChunk = true := by simp [Stream.inChunk, job]
    have hheld : v.st.lock = some (.rd v.sid) := headed.lock
    obtain ⟨⟨hp, hholds, -, hmagic, hhalf, hleft, hoff⟩, hcount⟩ := headed.whole
    have hp : v.st.pstate = .readingHeader := hp
    refine ⟨?_, ?_, hcfg ▸ headed.frame, by rw [hcfg, href]; exact stalled.syncInv job, hcfg ▸ headed.guard⟩
    · exact (jobSound_some job).mpr ⟨hwait stalled, by simp [userSound, hheld, hp]⟩
    · rw [hcap]
      exact ⟨hholds, fun _ => headed.ignLeft, by simp [hp], fun _ => hhalf,
        fun h => absurd hp h, fun _ => ⟨hmagic, by simp [hinside], fun _ => hcount⟩, fun _ => ⟨hleft, hoff⟩, by simp [hp]⟩

end Back

/-! ### A sound state after one of its streams' operations -/

/-- Another stream stays sound: it is in no lock that this one may take, and the reference it has stays (R29, R72). -/
theorem streamInv_beside {s : State} {sid k : Nat} {st st' : Stream} {v : RdCtx} {t : State} (hk : k ≠ sid)
    (hst' : StreamInv s k st') (hv : Shares (s.ctx sid st) v) (hcfg : t.cfg = s.cfg) (hcap : t.cap = s.cap)
    (hb : t.capValid = s.capValid) (href : t.ref = v.ref) (hlock : t.clkLock = v.clkLock) : StreamInv t k st' := by
  have hsid : v.sid = sid := hv.sid
  refine ⟨?_, hcap ▸ hst'.parser, hcfg ▸ hst'.frame, ?_, ?_⟩
  · have hjob := hst'.job
    obtain ⟨hr, hl⟩ | ⟨hown, hown', hr⟩ := hv.ref
    · simpa only [jobSound, waitSound, hcfg, href, hlock, hr, hl, State.ctx] using hjob
    · have hfree : s.clkLock ≠ some (.rd k) := by
        obtain hn | hn := hown <;> rw [show s.clkLock = _ from hn] <;> simp [State.ctx, Ne.symm hk]
      have hfree' : t.clkLock ≠ some (.rd k) := by
        rw [hlock]
        obtain hn | hn := hown' <;> rw [hn] <;> simp [hsid, Ne.symm hk]
      cases hj : st'.job with
      | none => exact (jobSound_none hj).mpr ⟨((jobSound_none hj).mp hjob).1, hfree'⟩
      | some j =>
        obtain ⟨hw, hu⟩ := (jobSound_some hj).mp hjob
        obtain ⟨hop, hzero, -, hinside, -⟩ := waitSound_iff.mp hw
        refine (jobSound_some hj).mpr ⟨?_, hu⟩
        rw [waitSound_iff, hcfg]
        exact ⟨hop, hzero, fun _ => hfree', fun h => absurd (hinside h).1 hfree, fun _ => hfree'⟩
  · have hsync := hst'.sync
    rw [hcfg, href]
    obtain ⟨hr, -⟩ | ⟨-, -, hr⟩ := hv.ref
    · rw [hr]
      exact hsync
    · intro hf
      have hvalid := (hsync hf).1
      obtain hr | ⟨hn, -⟩ := hr
      · rw [hr]
        exact hsync hf
      · rw [show s.ref.valid = false from hn] at hvalid
        cases hvalid
  · rw [hcfg, hb]
    exact hst'.guard

/-- A reference that a stream's operation leaves in place still lies within the clocks. -/
theorem Shares.refFits {v u : RdCtx} (h : Shares v u) (hv : v.refFits) (hu : u.ref.valid = true → u.refFits) :
    u.refFits := by
  have hkept (hr : u.ref = v.ref) : u.refFits := by
    rw [RdCtx.refFits, hr, h.cfg]
    exact ⟨BitVec.le_trans hv.1 h.last, hv.2⟩
  obtain ⟨hr, -⟩ | ⟨-, -, hr | ⟨-, hvalid⟩⟩ := h.ref
  · exact hkept hr
  · exact hkept hr
  · exact hu hvalid

section Leaves

variable {s : State} {sid : Nat} {st : Stream} {v : RdCtx}

/-- Only reader agents of streams there are take `CLK_LOCK` (R74). -/
theorem Shares.clkLock_reader (hv : Shares (s.ctx sid st) v) (h : Inv s) (hlt : sid < s.streams.length) {a : Agent}
    (ha : v.clkLock = some a) : ∃ k, a = .rd k ∧ k < s.streams.length := by
  obtain ⟨-, hl⟩ | ⟨-, hn | hn, -⟩ := hv.ref
  · exact h.clkLock a ((show v.clkLock = s.clkLock from hl).symm.trans ha)
  · rw [ha] at hn
    cases hn
  · rw [ha, hv.sid] at hn
    exact ⟨sid, Option.some.inj hn, hlt⟩

/-- Where some stream has or is past a reference, it lies within the clocks. -/
theorem SoundView.refFits_beside (hsound : SoundView s.capValid v) (h : Inv s) (hv : Shares (s.ctx sid st) v)
    (hr : v.ref.valid = true ∨ ∃ st' ∈ s.streams.set sid v.st, st'.pastReference = true) : v.refFits := by
  obtain hvalid | ⟨st', hmem, hpast⟩ := hr
  · exact hsound.refFits (.inl hvalid)
  · obtain hmem | rfl := List.mem_or_eq_of_mem_set hmem
    · exact hv.refFits (h.refHost (.inr ⟨st', hmem, hpast⟩)) fun hvalid => hsound.refFits (.inl hvalid)
    · exact hsound.refFits (.inr hpast)

/-- Every stream is sound after an operation that leaves its own stream sound. -/
theorem SoundView.streamInv_leaves {k : Nat} {st' : Stream} (hsound : SoundView s.capValid v) (r : Ret) (h : Inv s)
    (hlt : sid < s.streams.length) (hv : Shares (s.ctx sid st) v) (hst' : (s.streams.set sid v.st)[k]? = some st') :
    StreamInv (s.leaves r v) k st' := by
  have hsid : v.sid = sid := hv.sid
  by_cases hk : k = sid
  · subst hk
    rw [List.getElem?_set_self hlt] at hst'
    cases hst'
    rw [← hsid]
    exact hsound.streamInv hv.cfg.symm hv.cap.symm rfl rfl rfl
  · rw [List.getElem?_set_ne (Ne.symm hk)] at hst'
    exact streamInv_beside hk (h.streams k st' hst') hv rfl rfl rfl rfl rfl

/-- After an operation of a stream that leaves it sound the state is sound. -/
theorem inv_leaves (r : Ret) (h : Inv s) (hs : s.streams[sid]? = some st) (hv : Shares (s.ctx sid st) v)
    (hsound : SoundView s.capValid v) : Inv (s.leaves r v) := by
  have hlt : sid < s.streams.length := (List.getElem?_eq_some_iff.mp hs).1
  have hstreams : (s.leaves r v).streams = s.streams.set sid v.st := by rw [← show v.sid = sid from hv.sid]; rfl
  refine ⟨h.cfg, ?_, fun k st' hst' => ?_, h.cap, fun a ha => ?_, fun href => ?_, fun x hx => ?_, h.idle, h.admitted, h.held⟩
  · rw [hstreams, List.length_set]
    exact h.count
  · rw [hstreams] at hst'
    exact hsound.streamInv_leaves r h hlt hv hst'
  · rw [hstreams, List.length_set]
    exact hv.clkLock_reader h hlt ha
  · rw [hstreams] at href
    have hfits := hsound.refFits_beside h hv href
    rw [RdCtx.refFits, hv.cfg] at hfits
    exact hfits
  · obtain ⟨hc, hi, hn, hnr, hxr, hfl, hrl, hbl, hrecv, hph⟩ := h.exchange x hx
    exact ⟨hc, hi, hn, hnr, hxr, hfl, hrl, hbl, fun hp => (show v.io.recvQ = s.io.recvQ from hv.recvQ).trans (hrecv hp), hph⟩

end Leaves

/-! ### A sound state after what touches no stream -/

/-- What a part of a step that works on no stream leaves: the streams and what they stand on, and no operation that waits but
such as may. -/
structure Beside (s t : State) : Prop where
  cfg : t.cfg = s.cfg
  streams : t.streams = s.streams
  cap : t.cap = s.cap
  capValid : t.capValid = s.capValid
  clkLock : t.clkLock = s.clkLock
  ref : t.ref = s.ref
  last : s.io.clock.last ≤ t.io.clock.last
  admitted : ∀ c ∈ t.admitted, c ∈ s.admitted ∨ isIssuer c.agent = true
  held : ∀ i ∈ t.held, i ∈ s.held ∨ ((encode DecodeCtx.ref i).isSome = true ∧ i.check s.cfg = none)

theorem Beside.refl (s : State) : Beside s s :=
  ⟨rfl, rfl, rfl, rfl, rfl, rfl, BitVec.le_refl _, fun _ => .inl, fun _ => .inl⟩

/-- The ports and the value returned are others, the host clock no earlier. -/
theorem beside_ports (s : State) {io : Io} (h : s.io.clock.last ≤ io.clock.last) (r : Ret) :
    Beside s { s with io := io, ret := r } :=
  ⟨rfl, rfl, rfl, rfl, rfl, rfl, h, fun _ => .inl, fun _ => .inl⟩

/-- A stream's soundness stands on the configuration, the connection and the reference with its lock. -/
theorem StreamInv.congr {s t : State} {sid : Nat} {st : Stream} (h : StreamInv s sid st) (hcfg : t.cfg = s.cfg)
    (hcap : t.cap = s.cap) (hb : t.capValid = s.capValid) (hlock : t.clkLock = s.clkLock) (href : t.ref = s.ref) :
    StreamInv t sid st := by
  obtain ⟨hjob, hparser, hframe, hsync, hguard⟩ := h
  refine ⟨?_, hcap ▸ hparser, hcfg ▸ hframe, ?_, ?_⟩
  · simpa only [jobSound, waitSound, hcfg, hlock, href] using hjob
  · rw [hcfg, href]
    exact hsync
  · rw [hcfg, hb]
    exact hguard

theorem Beside.inv {s t : State} (hb : Beside s t) (h : Inv s) (hx : ∀ x, t.exchange = some x → ExchangeInv t x)
    (hi : t.exchange = none → t.cmdLock = none) : Inv t := by
  refine ⟨hb.cfg ▸ h.cfg, by rw [hb.streams, hb.cfg]; exact h.count, fun sid st hst => ?_, ?_, ?_, fun hr => ?_, hx, hi,
    fun c hc => (hb.admitted c hc).elim (h.admitted c) id, fun i hi => ?_⟩
  · rw [hb.streams] at hst
    exact (h.streams sid st hst).congr hb.cfg hb.cap hb.capValid hb.clkLock hb.ref
  · rw [hb.capValid, hb.cap]
    exact h.cap
  · rw [hb.clkLock, hb.streams]
    exact h.clkLock
  · rw [hb.ref, hb.streams] at hr
    obtain ⟨hhost, htick⟩ := h.refHost hr
    rw [hb.ref, hb.cfg]
    exact ⟨BitVec.le_trans hhost hb.last, htick⟩
  · rw [hb.cfg]
    exact (hb.held i hi).elim (h.held i) id

/-- A sound exchange stands on the configuration, the connection's locks and counter, and what waits at `CTRL_RX`. -/
theorem ExchangeInv.congr {s t : State} {x : Exchange} (h : ExchangeInv s x) (hcfg : t.cfg = s.cfg) (hcap : t.cap = s.cap)
    (hlock : t.cmdLock = s.cmdLock) (hid : t.nextId = s.nextId)
    (hq : x.phase.receives = true → t.io.recvQ = s.io.recvQ) : ExchangeInv t x := by
  obtain ⟨hc, hi, hn, hnr, hxr, hfl, hrl, hbl, hrecv, hph⟩ := h
  rw [ExchangeInv, hcfg, hcap, hlock, hid]
  exact ⟨hc, hi, hn, hnr, hxr, hfl, hrl, hbl, fun hp => (hq hp).trans (hrecv hp), hph⟩

/-- What leaves the exchange alone, too. -/
theorem Beside.inv_still {s t : State} (hb : Beside s t) (h : Inv s) (hx : t.exchange = s.exchange)
    (hlock : t.cmdLock = s.cmdLock) (hid : t.nextId = s.nextId) (hq : s.receiving = true → t.io.recvQ = s.io.recvQ) :
    Inv t := by
  refine hb.inv h (fun x hxt => ?_) fun hn => by rw [hlock]; exact h.idle (hx.symm.trans hn)
  rw [hx] at hxt
  refine (h.exchange x hxt).congr hb.cfg hb.cap hlock hid fun hr => hq ?_
  rw [State.receiving, hxt]
  exact hr

end Sys2Proof.Machine
end

section
/-! PROOFS. The operations of a stream from a sound state: the state stays sound, the reference stays, and the only fault is a
value beyond 64 bits (R44, R75, R162 to R164, R170, R211, R219, R242, R250, R253). -/

namespace Sys2Proof.Machine

/-! ### Outcomes from a sound state -/

/-- What may come of a step from a sound state: a sound state with a property, a refusal, or a value beyond 64 bits (U14). -/
def Safe (P : State → Prop) (o : Outcome) : Prop :=
  match o with
  | .next t => Inv t ∧ P t
  | .fault e => e = .outOf64Bits
  | .refused _ => True

/-- A valid reference stays (R44 (i)). -/
def RefStays (s t : State) : Prop := s.ref.valid = true → t.ref = s.ref

theorem Safe.mono {P Q : State → Prop} {o : Outcome} (h : Safe P o) (hpq : ∀ t, P t → Q t) : Safe Q o := by
  cases o with
  | next t => exact ⟨h.1, hpq t h.2⟩
  | fault e => exact h
  | refused r => trivial

/-- An operation that may be held: it came from a port, and its operands are well formed. -/
def Holdable (cfg : Cfg) (i : Instr) : Prop := (encode DecodeCtx.ref i).isSome = true ∧ i.check cfg = none

theorem hold_safe {s : State} {i : Instr} (h : Inv s) (hi : Holdable s.cfg i) : Safe (RefStays s) (.next (s.hold i)) := by
  have hbeside : Beside s (s.hold i) :=
    ⟨rfl, rfl, rfl, rfl, rfl, rfl, BitVec.le_refl _, fun _ => .inl, fun j hj =>
      (List.mem_append.mp hj).imp_right fun hj => by
        obtain rfl := List.mem_singleton.mp hj
        exact hi⟩
  exact ⟨hbeside.inv_still h rfl rfl rfl fun _ => rfl, fun _ => rfl⟩

/-! ### A stream's operation -/

/-- An operation on the view of a sound stream leaves a sound stream. -/
def Serves (b : Bool) (v : RdCtx) (x : Except Fault (Ret × RdCtx)) : Prop :=
  Sure x fun p => SoundView b p.2 ∧ Shares v p.2

section Stream

variable {s : State} {sid : Nat} {f : RdCtx → Except Fault (Ret × RdCtx)}

theorem leaves_safe {st : Stream} {v : RdCtx} (r : Ret) (h : Inv s) (hs : s.streams[sid]? = some st)
    (hsound : SoundView s.capValid v) (hv : Shares (s.ctx sid st) v) : Safe (RefStays s) (.next (s.leaves r v)) := by
  refine ⟨inv_leaves r h hs hv hsound, fun hvalid => ?_⟩
  obtain ⟨hr, -⟩ | ⟨-, -, hr | ⟨hn, -⟩⟩ := hv.ref
  · exact hr
  · exact hr
  · rw [show s.ref.valid = false from hn] at hvalid
    cases hvalid

theorem onStream_safe (h : Inv s)
    (hf : ∀ st, s.streams[sid]? = some st → Serves s.capValid (s.ctx sid st) (f (s.ctx sid st))) :
    Safe (RefStays s) (s.onStream sid f) := by
  obtain ⟨-, ho⟩ | ⟨st, hs, ⟨e, he, ho⟩ | ⟨r, v, hr, ho⟩⟩ := onStream_cases s sid f <;> rw [ho]
  · trivial
  · have := hf st hs
    rw [he] at this
    exact this
  · have := hf st hs
    rw [hr] at this
    exact leaves_safe r h hs this.1 this.2

/-- An operation of a reader agent: held, or run where nothing is in its way. -/
theorem onReader_safe {i : Instr} {waits : Stream → Bool} (h : Inv s) (hi : Holdable s.cfg i)
    (hf : ∀ st, s.streams[sid]? = some st → waits st = false → Serves s.capValid (s.ctx sid st) (f (s.ctx sid st))) :
    Safe (RefStays s) (s.onReader i sid waits f) := by
  unfold State.onReader
  split
  · trivial
  · rename_i st hs
    split
    · exact hold_safe h hi
    · rename_i hw
      refine onStream_safe h fun st' hs' => ?_
      obtain rfl : st' = st := Option.some.inj (hs'.symm.trans hs)
      exact hf st' hs' (by simpa using hw)

end Stream

/-! ### Time conversions -/

theorem Shares.emit {v u : RdCtx} (h : Shares v u) (o : Output) : Shares v (u.emit o) :=
  h.trans ((Frames.refl u).emit o).shares

theorem Still.emit {b : Bool} {v : RdCtx} (h : Still b v) (o : Output) : Still b (v.emit o) :=
  ⟨h.cfg, h.parser, h.frame, h.guard, h.job, h.lock⟩

theorem Stalled.emit {w : TimeWait} {v : RdCtx} (h : Stalled w v) (o : Output) : Stalled w (v.emit o) :=
  ⟨h.op, h.zero, h.before, h.inside, h.after, h.ref, h.first, h.sync⟩

theorem Headed.emit {b : Bool} {v : RdCtx} (h : Headed b v) (o : Output) : Headed b (v.emit o) :=
  ⟨h.toArmed.frames ((Frames.refl v).emit o) h.frame, h.whole⟩

theorem SoundView.emit {b : Bool} {v : RdCtx} (h : SoundView b v) (o : Output) : SoundView b (v.emit o) := by
  cases h with
  | idle still clocked => exact .idle (still.emit o) (clocked.frames ((Frames.refl v).emit o))
  | asked w job still stalled => exact .asked w job (still.emit o) (stalled.emit o)
  | chunk w rest job headed stalled => exact .chunk w rest job (headed.emit o) (stalled.emit o)

/-- A stream whose agent waits inside the conversion it asked for (R287). -/
theorem Still.park {b : Bool} {v : RdCtx} {w : TimeWait} (h : Still b v) (hw : Stalled w v) :
    SoundView b (v.park w (.asked (some (.rd v.sid)))) := by
  have hfree := RdCtx.freed_park h.job w (.asked (some (.rd v.sid)))
  exact .asked w rfl (by rwa [hfree]) (by rwa [hfree])

/-- A stream that waits inside a chunk with its packet's time (R170). -/
theorem Headed.park {b : Bool} {v : RdCtx} {w : TimeWait} (h : Headed b v) (hw : Stalled w v) (rest : List Byte) :
    SoundView b (v.park w (.parser (.chunk rest))) := by
  have hfree := RdCtx.freed_park h.job w (.parser (.chunk rest))
  exact .chunk w rest rfl (by rwa [hfree]) (by rwa [hfree])

/-- A conversion that an agent asked for leaves a sound stream, at its end and where it waits (R10, R18). -/
theorem csSettle_serves {b : Bool} {v : RdCtx} {op op' : TimeOp} {x : Except Fault (Run Micros)} (hs : Still b v)
    (hx : Sure x (Comes op Clocked v)) (hy : YieldsConverted v x) :
    Serves b v (x >>= fun r => .ok (csSettle op' (some (.rd v.sid)) r)) := by
  refine (hx.and hy).bind fun r ⟨hr, hconv⟩ => ?_
  have hstill := hs.converts hconv
  cases r with
  | done us u => exact sure_ok ⟨(SoundView.idle hstill hr.1).emit _, hr.2.emit _⟩
  | wait w u =>
    obtain ⟨-, hw, hshare⟩ := hr
    have hpark : SoundView b (u.park w (.asked (some (.rd v.sid)))) := by
      rw [← hshare.sid]
      exact Still.park hstill hw
    exact sure_ok ⟨hpark, hshare.record _⟩

/-- A view with no conversion that waits is one of an idle stream. -/
theorem SoundView.of_idle {b : Bool} {v : RdCtx} (h : SoundView b v) (hj : v.st.job = none) : Still b v ∧ Clocked v := by
  cases h with
  | idle still clocked => exact ⟨still, clocked⟩
  | asked w job still stalled => rw [hj] at job; cases job
  | chunk w rest job headed stalled => rw [hj] at job; cases job

theorem onClock_safe {s : State} {sid : Nat} {i : Instr} {op : TimeOp} (h : Inv s) (hi : Holdable s.cfg i)
    (ho : Convertible s.cfg op) : Safe (RefStays s) (s.onClock i sid op (some (.rd sid)) (csBegin op)) := by
  refine onReader_safe h hi fun st hs hw => ?_
  obtain ⟨hstill, hclocked⟩ := (soundView_of_inv h hs).of_idle (by simpa [Stream.inJob, State.ctx] using hw)
  exact csSettle_serves (v := s.ctx sid st) hstill (csBegin_comes ho hclocked) (csBegin_converts _ _)

theorem execCsTohost_safe {s : State} {a : Agent} {sid : Nat} {tick : Tick} (h : Inv s)
    (hi : Holdable s.cfg (.csTohost a sid tick)) : Safe (RefStays s) (execCsTohost a sid tick s) := by
  unfold execCsTohost
  split
  · trivial
  · rename_i ha
    obtain rfl : a = .rd sid := by simpa using ha
    exact onClock_safe h hi ⟨rfl, counterTick_lt _ _⟩

theorem execCsHostonly_safe {s : State} {a : Agent} {sid : Nat} (h : Inv s)
    (hi : Holdable s.cfg (.csHostonly a sid)) : Safe (RefStays s) (execCsHostonly a sid s) := by
  unfold execCsHostonly
  split
  · trivial
  · rename_i ha
    obtain rfl : a = .rd sid := by simpa using ha
    exact onClock_safe h hi ⟨rfl, Nat.two_pow_pos _⟩

/-! ### Chunks -/

/-- A chunk's end leaves a sound stream: its lock freed, or held where it waits (R75, R170). -/
theorem chunkEnd_serves {b : Bool} {v u : RdCtx} (h : Consumes b v u) :
    SoundView b (chunkEnd u).2 ∧ Shares v (chunkEnd u).2 := by
  obtain ⟨hin, hshare⟩ | ⟨w, x, rest, hhead, hstall, hshare, rfl⟩ := h
  · have hend : chunkEnd u = (.none, u.unlock) := by simp [chunkEnd, Stream.inJob, hin.job]
    rw [hend]
    have hclocked := hin.clocked
    exact ⟨.idle hin.still ⟨hclocked.lock, hclocked.sync, hclocked.ref⟩, hshare.record _⟩
  · have hend : chunkEnd (x.park w (.parser (.chunk rest))) = (.waiting, x.park w (.parser (.chunk rest))) := rfl
    rw [hend]
    exact ⟨hhead.park hstall rest, hshare.record _⟩

theorem prChunk_serves {b : Bool} {v : RdCtx} (bytes : List Byte) (hs : Still b v) (hc : Clocked v) :
    Serves b v (prChunk v bytes) :=
  (chunkLoop_consumes bytes.length _ bytes (Nat.le_refl _) (hs.inChunk hc)).bind fun _ hu =>
    sure_ok (chunkEnd_serves (hu.after ((Shares.refl v).record _)))

theorem chunkAt_safe {s : State} {sid : Nat} {bytes : List Byte} (h : Inv s) (hi : Holdable s.cfg (.prChunk sid bytes)) :
    Safe (RefStays s) (chunkAt sid bytes s) := by
  refine onReader_safe h hi fun st hs hw => ?_
  have hj : st.job = none := by
    simp only [Bool.or_eq_false_iff, Stream.inJob, Option.isSome_eq_false_iff, Option.isNone_iff_eq_none] at hw
    exact hw.2
  obtain ⟨hstill, hclocked⟩ := (soundView_of_inv h hs).of_idle hj
  exact prChunk_serves bytes hstill hclocked

theorem headerAt_safe {s : State} {sid : Nat} {type : Stream → Half} {seq size : Half} {ts : Tick} (h : Inv s)
    (hsid : sid < s.cfg.nStreams) : Safe (RefStays s) (headerAt sid type seq size ts s) := by
  unfold headerAt
  split
  · trivial
  · exact chunkAt_safe h ⟨rfl, by simp [Instr.check, Instr.stream?, hsid, Instr.operandProblem]⟩

/-! ### A reader agent goes on -/

/-- From a packet's time on, a chunk that waited goes on with its rest (R18, R170, R182). -/
theorem packetTimed_serves {b : Bool} {v u : RdCtx} (rest : List Byte) (us : Micros) (hh : Headed b u) (hc : Clocked u)
    (hv : Shares v u) : Serves b v (packetTimed (.chunk rest) us u) := by
  obtain ⟨h, hread, hsize⟩ := readHeader_whole hh.whole.cells
  have hf := prTimed_frames u h us
  unfold packetTimed
  rw [hread]
  refine (headerTail_sure (h := h) (hh.timed h us) (hc.frames hf) (by rw [hf.hdr]; exact hsize)).bind
    fun w ⟨hw, hs⟩ => ?_
  exact (chunkLoop_consumes rest.length w rest (Nat.le_refl _) hw).bind fun x hx =>
    sure_ok (chunkEnd_serves (hx.after ((hv.trans hf.shares).trans hs)))

theorem jobResume_serves {b : Bool} {v : RdCtx} {j : Job} (h : SoundView b v) (hj : v.st.job = some j) :
    Serves b v (jobResume v j) := by
  have hfreed : Shares v v.freed := (Shares.refl v).record _
  cases h with
  | idle still clocked => rw [still.job] at hj; cases hj
  | asked w job still stalled =>
    obtain rfl := Option.some.inj (job.symm.trans hj)
    have hserves := csSettle_serves (op' := w.op) still (csResume_comes stalled) (csResume_converts w v.freed)
    exact hserves.mono fun p hp => ⟨hp.1, hfreed.trans hp.2⟩
  | chunk w rest job headed stalled =>
    obtain rfl := Option.some.inj (job.symm.trans hj)
    refine ((csResume_comes stalled).and (csResume_converts w v.freed)).bind fun r ⟨hr, hconv⟩ => ?_
    have hhead : Headed b r.ctx := ⟨headed.toArmed.converts hconv, headed.whole.converts hconv⟩
    cases r with
    | done us u => exact packetTimed_serves rest us hhead hr.1 (hfreed.trans hr.2)
    | wait t u =>
      obtain ⟨-, hw, hshare⟩ := hr
      exact sure_ok ⟨Headed.park hhead hw rest, (hfreed.trans hshare).record _⟩

theorem resumeReader_safe {s : State} {sid : Nat} (h : Inv s) : Safe (RefStays s) (s.resumeReader sid) := by
  unfold State.resumeReader
  split
  · exact ⟨h, fun _ => rfl⟩
  · rename_i st hs
    split
    · exact ⟨h, fun _ => rfl⟩
    · rename_i j hj
      refine onStream_safe h fun st' hs' => ?_
      obtain rfl : st' = st := Option.some.inj (hs'.symm.trans hs)
      exact jobResume_serves (soundView_of_inv h hs) hj

/-! ### Host operations -/

/-- What a host operation leaves of its view: the lock that the operation runs under apart, other registers with what a sound
stream needs of them (R75). -/
structure Hosted (b : Bool) (v u : RdCtx) : Prop where
  shares : Frames v { u with st := v.st }
  job : u.st.job = v.st.job
  sync : u.st.syFirst = true ∨ (u.st.syFirst = v.st.syFirst ∧ u.st.syLref = v.st.syLref ∧ u.st.syTotal = v.st.syTotal ∧
    u.st.syLastTick = v.st.syLastTick)
  parser : ParserInv u.cap.magicD2H u.freed.st
  frame : FrameInv u.cfg u.st
  guard : GuardInv u.cfg b u.st

theorem Hosted.synced {b : Bool} {v u : RdCtx} (h : Hosted b v u) {cfg : Cfg} {ref : ClockRef} (hs : Synced cfg ref v.st) :
    Synced cfg ref u.st := by
  obtain hf | ⟨hf, hl, ht, hlast⟩ := h.sync
  · intro h
    rw [hf] at h
    cases h
  · rw [Synced, hf, hl, ht, hlast]
    exact hs

theorem Hosted.first {b : Bool} {v u : RdCtx} (h : Hosted b v u) (hf : u.st.syFirst = false) : v.st.syFirst = false := by
  obtain hn | ⟨hsame, -⟩ := h.sync
  · rw [hf] at hn
    cases hn
  · exact hsame.symm.trans hf

/-- A host operation leaves a sound stream, also where a conversion of its reader agent waits (R287; log entry 41). -/
theorem Hosted.serves {b : Bool} {v u : RdCtx} (h : Hosted b v u) (hv : SoundView b v) (hl : v.st.lock = none) :
    SoundView b u.unlock ∧ Shares v u.unlock := by
  refine ⟨?_, h.shares.shares.record _⟩
  obtain ⟨hsid, hcfg, -, href, hclk, hclock, -, -⟩ := h.shares
  obtain ⟨sid, cfg, cap, ref, clk, st, io⟩ := u
  obtain rfl : sid = v.sid := hsid
  obtain rfl : cfg = v.cfg := hcfg
  obtain rfl : ref = v.ref := href
  obtain rfl : clk = v.clkLock := hclk
  have hclock : io.clock = v.io.clock := hclock
  have hfits (hr : v.refFits) : v.ref.host ≤ io.clock.last ∧ v.ref.tick.toNat < 2 ^ v.cfg.tickBits := by
    rw [hclock]
    exact hr
  cases hv with
  | idle still clocked =>
    have hfree := RdCtx.freed_of_none (v := RdCtx.unlock ⟨v.sid, v.cfg, cap, v.ref, v.clkLock, st, io⟩)
      (h.job.trans still.job)
    exact .idle (hfree ▸ ⟨still.cfg, h.parser, h.frame, h.guard, rfl, rfl⟩)
      ⟨clocked.lock, h.synced clocked.sync, fun hr => hfits (clocked.ref hr)⟩
  | asked w job still stalled =>
    exact .asked w (h.job.trans job) ⟨still.cfg, h.parser, h.frame, h.guard, rfl, rfl⟩
      ⟨stalled.op, stalled.zero, stalled.before, stalled.inside, fun hw => (stalled.after hw).imp_right hfits,
        fun hr => hfits (stalled.ref hr), fun hf => stalled.first (h.first hf), fun hw => h.synced (stalled.sync hw)⟩
  | chunk w rest job headed stalled =>
    have hheld : v.st.lock = some (.rd v.sid) := headed.lock
    rw [hheld] at hl
    cases hl

/-- A sound stream outside any chunk, without its job. -/
theorem SoundView.still {b : Bool} {v : RdCtx} (h : SoundView b v) (hl : v.st.lock = none) : Still b v.freed := by
  cases h with
  | idle still clocked => rwa [RdCtx.freed_of_none still.job]
  | asked w job still stalled => exact still
  | chunk w rest job headed stalled =>
    have hheld : v.st.lock = some (.rd v.sid) := headed.lock
    rw [hheld] at hl
    cases hl

section ByHost

variable {s : State} {sid : Nat} {f : RdCtx → Except Fault (Ret × RdCtx)} {a : Agent} {i : Instr} {allowed : Bool}

theorem onHost_safe (h : Inv s) (hi : Holdable s.cfg i)
    (hf : ∀ v : RdCtx, v.cfg = s.cfg → Still s.capValid v.freed → Sure (f (v.lock a)) fun p => Hosted s.capValid v p.2) :
    Safe (RefStays s) (s.onHost i allowed a sid f) := by
  obtain ⟨r, ho⟩ | ho | ⟨st, hs, hl, hcase⟩ := onHost_cases s i allowed a sid f
  · rw [ho]
    trivial
  · rw [ho]
    exact hold_safe h hi
  · have hview := soundView_of_inv h hs
    have hsure := hf (s.ctx sid st) rfl (hview.still hl)
    obtain ⟨e, he, ho⟩ | ⟨r, v, hr, ho⟩ := hcase <;> rw [ho]
    · rw [he] at hsure
      exact hsure
    · rw [hr] at hsure
      obtain ⟨hsound, hshares⟩ := Hosted.serves hsure hview hl
      have hreply : (s.withCtx v.unlock).reply a r = s.leaves r (v.unlock.emit (.result a r)) := rfl
      rw [hreply]
      exact leaves_safe r h hs (hsound.emit _) (hshares.emit _)

end ByHost

end Sys2Proof.Machine
end

section
/-! PROOFS. Each host operation of a stream keeps it sound (R162, R163, R164, R242, R250, R251, R253). -/

namespace Sys2Proof.Machine

section ByHost

variable {b : Bool} {v : RdCtx} {a : Agent}

/-- A host operation that writes nothing. -/
theorem hosted_refl (h : Still b v.freed) (a : Agent) : Hosted b v (v.lock a) :=
  ⟨.refl v, rfl, .inr ⟨rfl, rfl, rfl, rfl⟩, h.parser, h.frame, h.guard⟩

/-- A stopped stream has no frame, under any configuration (R162, R164). -/
theorem frameInv_configured {cfg : Cfg} {st : Stream} (c : StreamConfig) (valid : Bool) (hc : cfgLegal cfg = true)
    (h : FrameInv cfg st) (hp : st.pstate = .awaitingConfiguration) :
    FrameInv cfg { st with conf := c, cfgValid := valid } := by
  obtain ⟨hout, hcont, -, -, -, -, hdrop, hfirst, hlast, hstop⟩ := h
  obtain ⟨hlen, hclen, hrest⟩ := hstop hp
  rw [hlen] at hout
  rw [hclen] at hcont
  exact frameInv_of_empty hc ⟨List.map_eq_nil_iff.mp hout, hlen⟩ ⟨List.map_eq_nil_iff.mp hcont, hclen⟩
    (fun hd => (hdrop hd).1) hfirst hlast fun _ => hrest

theorem prConfigure_hosted {c : StreamConfig} (h : Still b v.freed) (hd : codecOutOfDomain v.cfg c.codec = false) :
    Hosted b v (prConfigure (v.lock a) c).2 := by
  unfold prConfigure
  split
  · rename_i hlegal
    simp only [Bool.and_eq_true, decide_eq_true_eq] at hlegal
    obtain ⟨hp, hconf⟩ := hlegal
    have hp : v.st.pstate = .awaitingConfiguration := hp
    obtain ⟨-, -, hwhole, hempty⟩ := h.guard
    exact ⟨.refl v, rfl, .inr ⟨rfl, rfl, rfl, rfl⟩, h.parser, frameInv_configured (st := { v.st with lock := some a }) c true
      h.cfg h.frame hp, fun _ => ⟨hconf, hd⟩, fun hn => absurd hp hn, hwhole, hempty⟩
  · exact hosted_refl h a

/-- The parser's registers at their start, before a magic or stopped (R163, R164). -/
theorem parserReset_starts (magic : Half) (st : Stream) {p : PState} (hp : p ≠ .readingHeader) (hd : p ≠ .readingData)
    (hi : st.ignLeft = 0 ∨ p = .ignoringGarbage ∧ 1 ≤ st.ignLeft.toNat) (hj : p = .ignoringGarbage → st.ignLeft ≠ 0) :
    ParserInv magic (parserReset st p) := by
  refine ⟨rfl, fun hn => hi.resolve_right fun hg => hn hg.1, fun hg => ?_, fun _ => rfl, fun _ _ => rfl,
    fun h => absurd h hp, fun _ => ⟨rfl, rfl⟩, fun h => absurd h hd⟩
  exact (hi.resolve_left (hj hg)).2

theorem prArm_hosted (h : Still b v.freed) : Hosted b v (prArm b (v.lock a)).2 := by
  unfold prArm
  split
  · rename_i hlegal
    simp only [armLegal, Bool.and_eq_true, Bool.or_eq_true, Bool.not_eq_true', decide_eq_true_eq] at hlegal
    obtain ⟨⟨⟨hp, hcap⟩, hconf⟩, huse⟩ := hlegal
    obtain ⟨hdomain, -, hwhole, hempty⟩ := h.guard
    refine ⟨(Frames.refl v).emit _, rfl, .inl rfl, ?_, frameReset_frameInv _ h.cfg,
      hdomain, fun _ => ⟨hcap, hconf, or_assoc.mp huse⟩, hwhole, hempty⟩
    have hstart := parserReset_starts v.cap.magicD2H { v.st with ignLeft := v.st.conf.ignoreBytes, job := none }
      (p := if v.st.conf.ignoreBytes = 0 then .seekingMagic else .ignoringGarbage)
    refine hstart (by split <;> simp) (by split <;> simp) ?_ ?_
    · by_cases h0 : v.st.conf.ignoreBytes = 0
      · exact .inl h0
      · exact .inr ⟨if_neg h0, Nat.one_le_iff_ne_zero.mpr fun hz => h0 (BitVec.eq_of_toNat_eq hz)⟩
    · intro hg h0
      rw [if_pos (show v.st.conf.ignoreBytes = 0 from h0)] at hg
      cases hg
  · exact hosted_refl h a

theorem prStop_hosted (h : Still b v.freed) : Hosted b v (prStop (v.lock a)) := by
  obtain ⟨hdomain, -, hwhole, hempty⟩ := h.guard
  refine ⟨.refl v, rfl, .inl rfl, ?_, frameReset_frameInv _ h.cfg, hdomain, fun hn => absurd rfl hn, hwhole, hempty⟩
  exact parserReset_starts v.cap.magicD2H { v.st with ignLeft := 0, job := none } (p := .awaitingConfiguration) nofun nofun
    (.inl rfl) nofun

/-- The build of R251 gives every code a cell, and every depth from the last accepted one on. -/
theorem buildTables_lengths (cfg : Cfg) (cal : CalRecord) (mn mx : Half) (codes : List Nat) :
    ∀ lastCode lastDepth, lastDepth ≤ cfg.maxDepth →
      (buildTables cfg cal mn mx codes lastCode lastDepth).1.length = codes.length ∧
        (buildTables cfg cal mn mx codes lastCode lastDepth).2.length = cfg.maxDepth + 1 - lastDepth := by
  induction codes with
  | nil => exact fun _ _ _ => ⟨rfl, List.length_replicate⟩
  | cons c cs ih =>
    intro lastCode lastDepth hl
    unfold buildTables
    dsimp only
    split
    · rename_i haccept
      simp only [codeAccepted, Bool.and_eq_true, decide_eq_true_eq] at haccept
      obtain ⟨⟨⟨-, -⟩, hmax⟩, hmin⟩ := haccept
      obtain ⟨h1, h2⟩ := ih c (depthValue cfg.depthOf cal c).toNat (by omega)
      refine ⟨by simp [h1], ?_⟩
      rw [List.length_append, List.length_replicate, h2]
      omega
    · obtain ⟨h1, h2⟩ := ih lastCode lastDepth hl
      exact ⟨by simp [h1], h2⟩

theorem bdCalibrate_hosted (cal : CalRecord) (mn mx : Half) (h : Still b v.freed) :
    Hosted b v (bdCalibrate (v.lock a) cal mn mx) := by
  obtain ⟨hdomain, hready, -, -⟩ := h.guard
  obtain ⟨h1, h2⟩ := buildTables_lengths v.cfg cal mn mx (List.range v.cfg.maxCode) 0 0 (Nat.zero_le _)
  rw [List.length_range] at h1
  rw [Nat.sub_zero] at h2
  have hs2d := tableCells_holds (buildTables v.cfg cal mn mx (List.range v.cfg.maxCode) 0 0).1
  have hd2s := tableCells_holds (buildTables v.cfg cal mn mx (List.range v.cfg.maxCode) 0 0).2
  rw [h1] at hs2d
  rw [h2] at hd2s
  have harmed (hn : v.st.pstate ≠ .awaitingConfiguration) : b = true ∧ v.st.cfgValid = true ∧
      (v.st.conf.codec = .pass ∨ v.st.conf.lutEn = false ∨ true = true) :=
    have ⟨hcap, hvalid, _⟩ := hready hn
    ⟨hcap, hvalid, .inr (.inr rfl)⟩
  exact ⟨.refl v, rfl, .inr ⟨rfl, rfl, rfl, rfl⟩, h.parser, h.frame, hdomain, harmed, fun _ => ⟨hs2d, hd2s⟩, nofun⟩

/-- `BD.READTABLE` reads cells that hold values (R253). -/
theorem bdReadtable_ok (which : TableSel) (idx : Nat) (h : GuardInv v.cfg b v.st) :
    ∃ r, bdReadtable v which idx = .ok r := by
  obtain ⟨-, -, hwhole, -⟩ := h
  unfold bdReadtable
  split
  · exact ⟨_, rfl⟩
  · rename_i hvalid
    obtain ⟨hs2d, hd2s⟩ := hwhole (by simpa using hvalid)
    cases which with
    | s2d =>
      dsimp only
      split
      · exact ⟨_, rfl⟩
      · obtain ⟨c, hc⟩ := hs2d.cell (a := idx) (by omega)
        exact ⟨.cell c, by rw [hc]⟩
    | d2s =>
      dsimp only
      split
      · exact ⟨_, rfl⟩
      · obtain ⟨c, hc⟩ := hd2s.cell (a := idx) (by omega)
        exact ⟨.cell c, by rw [hc]⟩

/-- `BD.UNPACK` maps through whole tables, of a codec with a meaning; it writes nothing (R242). -/
theorem bdUnpack_ok (input : List Byte) (h : GuardInv v.cfg b v.st) : ∃ r, bdUnpack v input = .ok (r, v) := by
  obtain ⟨hconf, -, hwhole, -⟩ := h
  unfold bdUnpack
  split
  · exact ⟨_, rfl⟩
  · rename_i hrefused
    simp only [Bool.or_eq_true, Bool.and_eq_true, Bool.not_eq_true', decide_eq_true_eq, not_or, not_and,
      Bool.not_eq_false] at hrefused
    obtain ⟨⟨hvalid, hpass⟩, huse⟩ := hrefused
    obtain ⟨hlegal, -⟩ := hconf hvalid
    simp only [configLegal, Bool.and_eq_true, decide_eq_true_eq] at hlegal
    obtain ⟨⟨⟨⟨-, hx⟩, -⟩, -⟩, -⟩ := hlegal
    have htable : TableReady v.cfg v.st := by
      cases hl : v.st.conf.lutEn with
      | false => exact .inl hl
      | true => exact .inr (hwhole (huse hl)).1
    cases hcodec : v.st.conf.codec with
    | pass => exact absurd hcodec hpass
    | unpack11 =>
      obtain ⟨ds, hds⟩ := unpackElements_ok htable 11 v.cfg.elemIn11 (input.length / v.cfg.elemIn11) input
      exact ⟨_, by simp only [elemSpec, codeWidth, elemIn, hds]; rfl⟩
    | unpack12 =>
      obtain ⟨ds, hds⟩ := unpackElements_ok htable 12 v.cfg.elemIn12 (input.length / v.cfg.elemIn12) input
      exact ⟨_, by simp only [elemSpec, codeWidth, elemIn, hds]; rfl⟩
    | xform => exact absurd hcodec hx

end ByHost

section Meanings

variable {s : State} {a : Agent} {sid : Nat}

theorem execPrConfigure_safe {c : StreamConfig} (h : Inv s) (hi : Holdable s.cfg (.prConfigure a sid c)) :
    Safe (RefStays s) (execPrConfigure a sid c s) := by
  unfold execPrConfigure
  split
  · trivial
  · rename_i hd
    refine onHost_safe h hi fun v hv hs => sure_ok (prConfigure_hosted hs ?_)
    rw [hv]
    simpa using hd

theorem execPrArm_safe (h : Inv s) (hi : Holdable s.cfg (.prArm a sid)) : Safe (RefStays s) (execPrArm a sid s) :=
  onHost_safe h hi fun _ _ hs => sure_ok (prArm_hosted hs)

theorem execPrStop_safe (h : Inv s) (hi : Holdable s.cfg (.prStop a sid)) : Safe (RefStays s) (execPrStop a sid s) :=
  onHost_safe h hi fun _ _ hs => sure_ok (prStop_hosted hs)

theorem execBdCalibrate_safe {cal : CalRecord} {mn mx : Half} (h : Inv s)
    (hi : Holdable s.cfg (.bdCalibrate a sid cal mn mx)) : Safe (RefStays s) (execBdCalibrate a sid cal mn mx s) :=
  onHost_safe h hi fun _ _ hs => sure_ok (bdCalibrate_hosted cal mn mx hs)

theorem execBdReadtable_safe {which : TableSel} {idx : Nat} (h : Inv s)
    (hi : Holdable s.cfg (.bdReadtable a sid which idx)) : Safe (RefStays s) (execBdReadtable a sid which idx s) :=
  onHost_safe h hi fun v _ hs => by
    obtain ⟨r, hr⟩ := bdReadtable_ok (v := v.lock a) which idx hs.guard
    rw [hr]
    exact sure_ok (hosted_refl hs a)

theorem execBdUnpack_safe {input : List Byte} (h : Inv s) (hi : Holdable s.cfg (.bdUnpack a sid input)) :
    Safe (RefStays s) (execBdUnpack a sid input s) :=
  onHost_safe h hi fun v _ hs => by
    obtain ⟨r, hr⟩ := bdUnpack_ok (v := v.lock a) input hs.guard
    rw [hr]
    exact sure_ok (hosted_refl hs a)

end Meanings

end Sys2Proof.Machine
end

section
/-! PROOFS. A command exchange keeps its registers within their bounds wherever it waits (R28, R125, R126, R127, R130, R132). -/

namespace Sys2Proof.Machine

/-! ### The registers of an exchange -/

/-- The view of an attempt that has gone on from `d`: what its exchange was begun with and the not-ready count are unchanged, the
counters, the receive buffer and the body are within their bounds (R28). -/
structure Within (d c : CtCtx) : Prop where
  cfg : c.cfg = d.cfg
  cap : c.cap = d.cap
  owner : c.x.owner = d.x.owner
  reqId : c.x.reqId = d.x.reqId
  reqFrame : c.x.reqFrame = d.x.reqFrame
  nrCnt : c.x.nrCnt = d.x.nrCnt
  legal : cfgLegal c.cfg = true
  nr : c.x.nrCnt.toNat ≤ c.cfg.notReadyRetries
  xr : c.x.xrCnt.toNat ≤ c.cfg.xportRetries
  rxBuf : c.x.rxBuf.length ≤ c.cap.maxPkt.toNat
  body : c.x.body.length = min c.x.bodyLen.toNat c.cfg.bodyMax

/-- A part of an exchange stands at its end, or at a point where it may wait. -/
def Stands {α : Type} (d : CtCtx) (r : Progress α × CtCtx) : Prop :=
  Within d r.2 ∧ (r.1 = .wait → phaseSound r.2.x = true)

/-- An exchange waits for a raw receive only where no answer is left that it could take (R126; log entry 8). -/
def Drained (c : CtCtx) : Prop := c.x.phase.receives = true → c.io.recvQ = [] ∨ c.blocked = true

/-- A part of an exchange stands at its end, or waits for the environment. -/
def Rests {α : Type} (d : CtCtx) (r : Progress α × CtCtx) : Prop :=
  Within d r.2 ∧ (r.1 = .wait → phaseSound r.2.x = true ∧ Drained r.2)

/-- The retry bounds fit their counters (R28). -/
theorem retries_of_cfgLegal {c : Cfg} (h : cfgLegal c = true) : c.notReadyRetries ≤ 3 ∧ c.xportRetries ≤ 7 := by
  simp only [cfgLegal, Bool.and_eq_true, decide_eq_true_eq] at h
  obtain ⟨⟨⟨⟨⟨-, hn⟩, hx⟩, -⟩, -⟩, -⟩ := h
  exact ⟨hn, hx⟩

section Parts

variable {d c : CtCtx}

theorem stands_done {α : Type} {a : α} (h : Within d c) : Stands d (.done a, c) := ⟨h, nofun⟩

theorem stands_fail {α : Type} {k : ErrKind} (h : Within d c) : Stands d ((.fail k, c) : Progress α × CtCtx) := ⟨h, nofun⟩

theorem rests_done {α : Type} {a : α} (h : Within d c) : Rests d (.done a, c) := ⟨h, nofun⟩

theorem rests_fail {α : Type} {k : ErrKind} (h : Within d c) : Rests d ((.fail k, c) : Progress α × CtCtx) := ⟨h, nofun⟩

/-- The ports, the phase and the deadline of an exchange are in no bound. -/
theorem Within.moved (h : Within d c) (io : Io) (p : CtPhase) (t : Micros) :
    Within d { c with x := { c.x with phase := p, deadline := t }, io := io } :=
  ⟨h.cfg, h.cap, h.owner, h.reqId, h.reqFrame, h.nrCnt, h.legal, h.nr, h.xr, h.rxBuf, h.body⟩

theorem Within.counts (h : Within d c) {k : BitVec 3} (hk : k.toNat ≤ c.cfg.xportRetries) (io : Io) (p : CtPhase) :
    Within d { c with x := { c.x with xrCnt := k, phase := p }, io := io } :=
  ⟨h.cfg, h.cap, h.owner, h.reqId, h.reqFrame, h.nrCnt, h.legal, h.nr, hk, h.rxBuf, h.body⟩

/-- A further transport retry is counted exactly (R28, R125, R126). -/
theorem Within.countsNext (h : Within d c) (hk : c.x.xrCnt.toNat < c.cfg.xportRetries) (io : Io) :
    Within d { c with x := { c.x with xrCnt := c.x.xrCnt + 1 }, io := io } ∧
      (c.x.xrCnt + 1).toNat = c.x.xrCnt.toNat + 1 := by
  obtain ⟨-, hx⟩ := retries_of_cfgLegal h.legal
  have hnext : (c.x.xrCnt + 1).toNat = c.x.xrCnt.toNat + 1 := by
    rw [BitVec.toNat_add]
    exact Nat.mod_eq_of_lt (show c.x.xrCnt.toNat + 1 < 8 by omega)
  exact ⟨h.counts (by rw [hnext]; exact hk) io _, hnext⟩

/-! ### Sending -/

theorem sendLoop_rests {bytes : List Byte} (left : Nat) : ∀ {c : CtCtx}, Within d c → bytes = c.x.reqFrame →
    c.x.xrCnt.toNat + left ≤ c.cfg.xportRetries → Rests d (sendLoop bytes left c) := by
  have hwait {c : CtCtx} (h : Within d c) (hb : bytes = c.x.reqFrame) :
      Rests d ((.wait, c.at (.send bytes)) : Progress Unit × CtCtx) :=
    ⟨h.moved c.io (.send bytes) c.x.deadline, fun _ => ⟨by simp [CtCtx.at, phaseSound, hb], nofun⟩⟩
  induction left with
  | zero =>
    intro c h hb hl
    unfold sendLoop
    split
    · exact hwait h hb
    · dsimp only
      split
      · exact rests_done (h.moved _ c.x.phase c.x.deadline)
      · exact rests_fail (h.moved _ c.x.phase c.x.deadline)
  | succ left ih =>
    intro c h hb hl
    unfold sendLoop
    split
    · exact hwait h hb
    · rename_i a io _
      dsimp only
      split
      · exact rests_done (h.moved _ c.x.phase c.x.deadline)
      · obtain ⟨hnext, hcnt⟩ := h.countsNext (by omega) io
        refine ih hnext hb ?_
        show (c.x.xrCnt + 1).toNat + left ≤ c.cfg.xportRetries
        omega

theorem ctSendr_rests (h : Within d c) : Rests d (ctSendr c c.x.reqFrame) :=
  sendLoop_rests (c := { c with x := { c.x with xrCnt := 0 } }) _ (h.counts (Nat.zero_le _) c.io c.x.phase) rfl
    (by simp)

theorem sendAgain_rests {bytes : List Byte} (h : Within d c) (hb : bytes = c.x.reqFrame) :
    Rests d (sendAgain c bytes) :=
  sendLoop_rests _ h hb (by have := h.xr; omega)

/-! ### Receiving -/

theorem recvFailed_stands (f : RawFail) (h : Within d c) (hp : phaseSound c.x = true) : Stands d (recvFailed c f) := by
  unfold recvFailed
  split
  · exact stands_fail (h.moved _ c.x.phase c.x.deadline)
  · exact ⟨(h.countsNext (by omega) c.io).1, fun _ => hp⟩

/-- One raw receive leaves the registers of the loop it is in. -/
theorem recvAnswer_stands {a : RecvAns} (h : Within d c) (hp : phaseSound c.x = true) (ha : answerFits c.cap a = true) :
    Stands d (recvAnswer c a) ∧ (recvAnswer c a).2.x.bodyLen = c.x.bodyLen := by
  have hrx := h.moved (c.io.emit (.rx c.timeout)) c.x.phase c.x.deadline
  have hfailed {c : CtCtx} (f : RawFail) : (recvFailed c f).2.x.bodyLen = c.x.bodyLen := by
    unfold recvFailed
    split <;> rfl
  cases a with
  | data bytes =>
    refine ⟨stands_done ?_, rfl⟩
    exact ⟨hrx.cfg, hrx.cap, hrx.owner, hrx.reqId, hrx.reqFrame, hrx.nrCnt, hrx.legal, hrx.nr, hrx.xr, of_decide_eq_true ha, hrx.body⟩
  | timeout => exact ⟨recvFailed_stands .timeout hrx hp, hfailed _⟩
  | stall => exact ⟨recvFailed_stands .stall hrx hp, hfailed _⟩

theorem ctPoll_stands {α : Type} {p : CtPhase} (h : Within d c)
    (hp : phaseSound { c.x with phase := p } = true ∧ phaseSound { c.x with phase := p.receiving } = true) :
    Stands d (ctPoll (α := α) c p) := by
  unfold ctPoll
  split
  · exact ⟨h.moved c.io p c.x.deadline, fun _ => hp.1⟩
  · dsimp only
    split
    · exact stands_fail (h.moved _ c.x.phase c.x.deadline)
    · refine ⟨h.counts (Nat.zero_le _) _ _, fun _ => ?_⟩
      have hp := hp.2
      cases p <;> exact hp

theorem replyNext_stands (h : Within d c) : Stands d (replyNext c) := ctPoll_stands h ⟨rfl, rfl⟩

/-! ### The body -/

/-- The body grows with its length (R130; log entry 39). -/
theorem bodyGrown_within {bs : List Byte} (h : Within d c) (hn : c.x.bodyLen.toNat + bs.length < 65536) :
    Within d (bodyGrown c bs) := by
  have hlen : (BitVec.ofNat 16 (c.x.bodyLen.toNat + bs.length)).toNat = c.x.bodyLen.toNat + bs.length := by
    rw [BitVec.toNat_ofNat, Nat.mod_eq_of_lt hn]
  refine ⟨h.cfg, h.cap, h.owner, h.reqId, h.reqFrame, h.nrCnt, h.legal, h.nr, h.xr, h.rxBuf, ?_⟩
  have hbody := h.body
  show (if c.x.bodyLen.toNat + bs.length ≤ c.cfg.bodyMax then c.x.body ++ bs
    else (List.range c.cfg.bodyMax).map (Config.longBody c.io.clock.reads)).length =
      min (BitVec.ofNat 16 (c.x.bodyLen.toNat + bs.length)).toNat c.cfg.bodyMax
  rw [hlen]
  split
  · rw [List.length_append]
    omega
  · rw [List.length_map, List.length_range]
    omega

theorem gatherNext_stands {size : Half} (h : Within d c) : Stands d (gatherNext c size) := by
  unfold gatherNext
  split
  · exact stands_done h
  · rename_i hmore
    have hmore : c.x.bodyLen < size := BitVec.not_le.mp hmore
    exact ctPoll_stands h ⟨decide_eq_true hmore, decide_eq_true hmore⟩

theorem gatherStart_stands {chunk : List Byte} {hdr : ReplyHdr} (h : Within d c) : Stands d (gatherStart c chunk hdr) := by
  refine gatherNext_stands (bodyGrown_within ?_ ?_)
  · exact ⟨h.cfg, h.cap, h.owner, h.reqId, h.reqFrame, h.nrCnt, h.legal, h.nr, h.xr, h.rxBuf, (Nat.zero_min _).symm⟩
  · have := hdr.size.isLt
    have hlen : ((chunk.drop (hdr.p + Config.cmdHdrSize)).take hdr.size.toNat).length ≤ hdr.size.toNat :=
      List.length_take_le _ _
    show 0 + _ < 65536
    omega

theorem gatherAnswer_stands {size : Half} {a : RecvAns} (h : Within d c) (hp : phaseSound c.x = true)
    (hs : c.x.bodyLen < size) (ha : answerFits c.cap a = true) : Stands d (gatherAnswer c size a) := by
  obtain ⟨hstands, hlen⟩ := recvAnswer_stands h hp ha
  unfold gatherAnswer
  split <;> rename_i heq <;> rw [heq] at hstands hlen
  · exact ⟨hstands.1, fun _ => hstands.2 rfl⟩
  · exact stands_fail hstands.1
  · rename_i bytes u
    refine gatherNext_stands (bodyGrown_within hstands.1 ?_)
    have hu : u.x.bodyLen.toNat = c.x.bodyLen.toNat := congrArg _ hlen
    have hs : c.x.bodyLen.toNat < size.toNat := hs
    have := size.isLt
    have := List.length_take_le (size.toNat - u.x.bodyLen.toNat) bytes
    omega

theorem gathered_stands {r : Progress (List Byte) × CtCtx} (h : Stands d r) : Stands d (gathered r) := by
  obtain ⟨p, c⟩ := r
  cases p with
  | wait => exact ⟨h.1, fun _ => h.2 rfl⟩
  | fail k => exact stands_fail h.1
  | done body => exact stands_done (h.1.moved _ c.x.phase c.x.deadline)

/-! ### One attempt -/

theorem chunkArrived_stands {chunk : List Byte} (h : Within d c) : Stands d (chunkArrived c chunk) := by
  have hraised (c : CtCtx) (h : Within d c) (e : Option Event) : Within d (c.raiseSome e) :=
    h.moved _ c.x.phase c.x.deadline
  unfold chunkArrived
  dsimp only
  split
  · exact replyNext_stands (hraised _ h _)
  · exact replyNext_stands (hraised _ h _)
  · split
    · exact gathered_stands (gatherStart_stands (hraised _ (hraised _ h _) _))
    · exact replyNext_stands (hraised _ (hraised _ h _) _)

theorem attemptAnswer_stands {a : RecvAns} (h : Within d c) (hp : phaseSound c.x = true)
    (ha : answerFits c.cap a = true) : Stands d (attemptAnswer c a) := by
  unfold attemptAnswer
  split
  · rename_i size hphase
    have hs : c.x.bodyLen < size := by simpa [phaseSound, hphase] using hp
    exact gathered_stands (gatherAnswer_stands h hp hs ha)
  · obtain ⟨hstands, -⟩ := recvAnswer_stands h hp ha
    split <;> rename_i heq <;> rw [heq] at hstands
    · exact ⟨hstands.1, fun _ => hstands.2 rfl⟩
    · exact stands_fail hstands.1
    · exact chunkArrived_stands hstands.1
  all_goals exact ⟨h, fun _ => hp⟩

/-- The answers at hand taken, an exchange that still waits for one has none left that it could take (R126, U3). -/
theorem attemptDrain_rests (q : List RecvAns) : ∀ {c : CtCtx}, Within d c → phaseSound c.x = true →
    Rests d (attemptDrain q c) := by
  have hleft {c : CtCtx} (h : Within d c) (q : List RecvAns) : Within d (c.leave q) := h.moved _ c.x.phase c.x.deadline
  induction q with
  | nil => exact fun h hp => ⟨hleft h [], fun _ => ⟨hp, fun _ => .inl rfl⟩⟩
  | cons a q ih =>
    intro c h hp
    rw [attemptDrain]
    split
    · rename_i hfits
      simp only [Bool.and_eq_true] at hfits
      have hanswer := attemptAnswer_stands h hp hfits.2
      split <;> rename_i heq <;> rw [heq] at hanswer
      · exact ih hanswer.1 (hanswer.2 rfl)
      · exact rests_done (hleft hanswer.1 q)
      · exact rests_fail (hleft hanswer.1 q)
    · rename_i hno
      refine ⟨hleft h _, fun _ => ⟨hp, fun hr => .inr ?_⟩⟩
      have hr : c.x.phase.receives = true := hr
      simp only [hr, Bool.true_and] at hno
      simp [CtCtx.blocked, CtCtx.leave, hr, hno]

theorem received_rests {r : Progress ExecResult × CtCtx} (h : Stands d r) : Rests d (received r) := by
  obtain ⟨p, c⟩ := r
  cases p with
  | wait => exact attemptDrain_rests _ h.1 (h.2 rfl)
  | done r => exact rests_done h.1
  | fail k => exact rests_fail h.1

theorem attemptSent_rests {r : Progress Unit × CtCtx} (h : Rests d r) : Rests d (attemptSent r) := by
  obtain ⟨p, c⟩ := r
  cases p with
  | wait => exact ⟨h.1, fun _ => h.2 rfl⟩
  | fail k => exact rests_fail h.1
  | done u => exact received_rests (replyNext_stands h.1)

theorem ctAttempt_rests (h : Within d c) : Rests d (ctAttempt c) := by
  unfold ctAttempt
  split
  · exact ⟨h.moved c.io .start c.x.deadline, fun _ => ⟨rfl, nofun⟩⟩
  · exact attemptSent_rests (ctSendr_rests (h.moved _ c.x.phase _))

theorem attemptResume_rests (h : Within d c) (hp : phaseSound c.x = true) : Rests d (attemptResume c) := by
  unfold attemptResume
  split
  · exact ctAttempt_rests h
  · rename_i bytes hphase
    exact attemptSent_rests (sendAgain_rests h (by simpa [phaseSound, hphase] using hp))
  · exact received_rests (replyNext_stands h)
  · exact received_rests ⟨h, fun _ => hp⟩
  · exact received_rests (gathered_stands (gatherNext_stands h))
  · exact received_rests ⟨h, fun _ => hp⟩

/-! ### The not-ready loop -/

/-- The view of an exchange with another not-ready count. -/
def CtCtx.counted (c : CtCtx) (n : BitVec 2) : CtCtx := { c with x := { c.x with nrCnt := n } }

/-- An exchange has ended, or waits for the environment. -/
def Ends (d : CtCtx) (r : Option ExecResult × CtCtx) : Prop :=
  Within (d.counted r.2.x.nrCnt) r.2 ∧ (r.1 = none → phaseSound r.2.x = true ∧ Drained r.2)

theorem ends_of_rests {n : BitVec 2} {r : Progress ExecResult × CtCtx} (h : Rests (d.counted n) r) :
    Ends d (r.1.result, r.2) := by
  obtain ⟨p, c⟩ := r
  obtain ⟨hw, hwait⟩ := h
  have hn : c.x.nrCnt = n := hw.nrCnt
  refine ⟨hn ▸ hw, fun hnone => hwait ?_⟩
  cases p with
  | wait => rfl
  | done r => cases hnone
  | fail k => cases hnone

/-- A further attempt is counted exactly (R132). -/
theorem Within.countsAttempt {n : BitVec 2} (h : Within (d.counted n) c) (hn : n.toNat < c.cfg.notReadyRetries) (io : Io) :
    Within (d.counted (n + 1)) { c with x := { c.x with nrCnt := c.x.nrCnt + 1 }, io := io } ∧
      (n + 1).toNat = n.toNat + 1 := by
  obtain ⟨h3, -⟩ := retries_of_cfgLegal h.legal
  have hcnt : c.x.nrCnt = n := h.nrCnt
  have hnext : (n + 1).toNat = n.toNat + 1 := by
    rw [BitVec.toNat_add]
    exact Nat.mod_eq_of_lt (show n.toNat + 1 < 4 by omega)
  refine ⟨⟨h.cfg, h.cap, h.owner, h.reqId, h.reqFrame, ?_, h.legal, ?_, h.xr, h.rxBuf, h.body⟩, hnext⟩
  · exact congrArg (· + 1) hcnt
  · show (c.x.nrCnt + 1).toNat ≤ c.cfg.notReadyRetries
    rw [hcnt, hnext]
    exact hn

theorem execLoop_ends (left : Nat) : ∀ {n : BitVec 2} {r : Progress ExecResult × CtCtx}, Rests (d.counted n) r →
    n.toNat + left ≤ r.2.cfg.notReadyRetries → Ends d (execLoop left r) := by
  induction left with
  | zero => exact fun h _ => ends_of_rests h
  | succ left ih =>
    intro n (p, c) h hl
    have hl : n.toNat + (left + 1) ≤ c.cfg.notReadyRetries := hl
    rw [execLoop]
    split
    · obtain ⟨hw, hnext⟩ := Within.countsAttempt (c := c) h.1 (by omega) (c.io.emit (.delay c.cfg.notReadyBackoffUs))
      have hattempt := ctAttempt_rests hw
      refine ih hattempt ?_
      rw [hattempt.1.cfg, ← hw.cfg]
      show (n + 1).toNat + left ≤ c.cfg.notReadyRetries
      omega
    · exact ends_of_rests h

/-- The exchange from an attempt on, with the repeats it has left at any point of that attempt (R123). -/
theorem exchange_ends {r : Progress ExecResult × CtCtx} (hc : Within d c) (h : Rests d r) :
    Ends d (execLoop (repeatsLeft c) r) := by
  refine execLoop_ends (d := d) (n := d.x.nrCnt) _ h ?_
  have hnr := hc.nr
  rw [h.1.cfg, repeatsLeft, ← hc.nrCnt, ← hc.cfg]
  omega

end Parts

/-! ### The exchange as a step -/

section Step

variable {s t : State} {d : CtCtx}

/-- An exchange that stays in flight is sound (R18, R28). -/
theorem exchangeInv_of_ends {c : CtCtx} {t : State} (h : Ends d (none, c)) (hb : c.blocked = false) (hcfg : t.cfg = d.cfg)
    (hcap : t.cap = d.cap) (hio : t.io = c.io) (hlock : t.cmdLock = some d.x.owner) (hi : isIssuer d.x.owner = true)
    (hid : t.nextId = nextCorrelation d.cfg d.x.reqId) (hf : d.x.reqFrame.length ≤ d.cap.maxPkt.toNat) :
    ExchangeInv t c.x := by
  obtain ⟨hw, hwait⟩ := h
  obtain ⟨hphase, hdrained⟩ := hwait rfl
  obtain ⟨hc, hp, ho, hr, hfr, -, -, hnr, hxr, hrx, hbody⟩ := hw
  have hc : c.cfg = d.cfg := hc
  have hp : c.cap = d.cap := hp
  rw [ExchangeInv, hcfg, hcap, hio, show c.x.owner = d.x.owner from ho, show c.x.reqId = d.x.reqId from hr,
    show c.x.reqFrame = d.x.reqFrame from hfr, ← hc, ← hp]
  rw [← hc] at hid
  rw [← hp] at hf
  exact ⟨hlock, hi, hid, hnr, hxr, hf, hrx, hbody, fun hrec => (hdrained hrec).resolve_right (by simp [hb]), hphase⟩

/-- The end of a turn of an exchange leaves a sound state (R18, R123). -/
theorem settle_safe {out : Option ExecResult × CtCtx} (h : Inv s) (hb : Beside s t) (hcfg : d.cfg = t.cfg)
    (hcap : d.cap = t.cap) (hlock : t.cmdLock = some d.x.owner) (hi : isIssuer d.x.owner = true)
    (hid : t.nextId = nextCorrelation d.cfg d.x.reqId) (hf : d.x.reqFrame.length ≤ d.cap.maxPkt.toNat)
    (ho : Ends d out) (hgrows : Grows t.io out.2.io) : Safe (RefStays s) (t.settle out) := by
  have hlast {io : Io} (hio : Grows out.2.io io) : s.io.clock.last ≤ io.clock.last :=
    BitVec.le_trans hb.last (hgrows.trans hio).last
  obtain ⟨r, c⟩ := out
  cases r with
  | none =>
    rw [State.settle]
    split
    · trivial
    · rename_i hblocked
      refine ⟨Beside.inv (s := s) ⟨hb.cfg, hb.streams, hb.cap, hb.capValid, hb.clkLock, hb.ref, hlast (.refl _), hb.admitted,
        hb.held⟩ h ?_ nofun, fun _ => hb.ref⟩
      rintro _ ⟨⟩
      exact exchangeInv_of_ends ho (by simpa using hblocked) hcfg.symm hcap.symm rfl hlock hi hid hf
  | some r =>
    rw [settle_ends]
    exact ⟨Beside.inv (s := s) ⟨hb.cfg, hb.streams, hb.cap, hb.capValid, hb.clkLock, hb.ref, hlast ((Grows.refl _).puts _),
      hb.admitted, hb.held⟩ h nofun fun _ => rfl, fun _ => hb.ref⟩

theorem frameBytes_length (magic op id : Half) (payload : List Byte) :
    (frameBytes magic op id payload).length = 8 + payload.length := by
  simp [frameBytes, halfBytes]
  omega

/-- A command that takes `CMD_LOCK` leaves a sound state (R123). -/
theorem beginExchange_safe {a : Agent} (op : Half) (payload : List Byte) (h : Inv s) (hb : Beside s t)
    (ha : isIssuer a = true) : Safe (RefStays s) (t.beginExchange a op payload) := by
  unfold State.beginExchange
  split
  · trivial
  · rename_i hfits
    have hfits : Config.cmdHdrSize + payload.length ≤ t.cap.maxPkt.toNat := by simpa [oversize] using hfits
    have hlegal : cfgLegal t.cfg = true := hb.cfg ▸ h.cfg
    let d := { t with cmdLock := some a, nextId := nextCorrelation t.cfg t.nextId }.ctCtx (newExchange t a op payload)
    have hframe : d.x.reqFrame.length ≤ d.cap.maxPkt.toNat := by
      show (frameBytes t.cap.magicH2D op t.nextId payload).length ≤ t.cap.maxPkt.toNat
      rw [frameBytes_length]
      exact hfits
    have hw : Within d d :=
      ⟨rfl, rfl, rfl, rfl, rfl, rfl, hlegal, Nat.zero_le _, Nat.zero_le _, Nat.zero_le _, (Nat.zero_min _).symm⟩
    exact settle_safe (d := d) (s := s) h
      ⟨hb.cfg, hb.streams, hb.cap, hb.capValid, hb.clkLock, hb.ref, hb.last, hb.admitted, hb.held⟩ rfl rfl rfl ha rfl hframe
      (exchange_ends hw (ctAttempt_rests hw)) (execLoop_grows _ (ctAttempt_grows (.refl _)))

/-- The exchange in flight goes on and leaves a sound state, whatever answers have been queued (R18). -/
theorem resumeExchange_safe (h : Inv s) (hb : Beside s t) (hx : t.exchange = s.exchange) (hlock : t.cmdLock = s.cmdLock)
    (hid : t.nextId = s.nextId) : Safe (RefStays s) t.resumeExchange := by
  unfold State.resumeExchange
  split
  · rename_i hn
    rw [hx] at hn
    refine ⟨hb.inv h (fun x hxt => ?_) fun _ => by rw [hlock]; exact h.idle hn, fun _ => hb.ref⟩
    rw [hx, hn] at hxt
    cases hxt
  · rename_i x hxt
    obtain ⟨hc, hi, hn, hnr, hxr, hfl, hrl, hbl, -, hph⟩ := h.exchange x (hx ▸ hxt)
    rw [← hlock] at hc
    rw [← hb.cfg, ← hid] at hn
    rw [← hb.cfg] at hnr hxr hbl
    rw [← hb.cap] at hfl hrl
    have hlegal : cfgLegal t.cfg = true := hb.cfg ▸ h.cfg
    have hw : Within (t.ctCtx x) (t.ctCtx x) := ⟨rfl, rfl, rfl, rfl, rfl, rfl, hlegal, hnr, hxr, hrl, hbl⟩
    have hrests := attemptResume_rests hw hph
    exact settle_safe (d := t.ctCtx x) h hb rfl rfl hc hi hn hfl (exchange_ends hrests.1 hrests)
      (execLoop_grows _ (attemptResume_grows (.refl _)))

/-- Answers at `CTRL_RX` leave a sound state: they queue, or take the exchange on (R10, R139, U21). -/
theorem receive_safe (vs : List RecvAns) (h : Inv s) (hb : Beside s t) (hx : t.exchange = s.exchange)
    (hlock : t.cmdLock = s.cmdLock) (hid : t.nextId = s.nextId) : Safe (RefStays s) (t.receive vs) := by
  have hqueued : Beside s { t with io := { t.io with recvQ := t.io.recvQ ++ vs } } :=
    ⟨hb.cfg, hb.streams, hb.cap, hb.capValid, hb.clkLock, hb.ref, hb.last, hb.admitted, hb.held⟩
  unfold State.receive
  dsimp only
  split
  · exact resumeExchange_safe h hqueued hx hlock hid
  · rename_i hidle
    refine ⟨hqueued.inv_still h hx hlock hid fun hr => absurd ?_ hidle, fun _ => hb.ref⟩
    rw [State.receiving, hx]
    exact hr

end Step

end Sys2Proof.Machine
end

section
/-! PROOFS. Connecting, commands and reset from a sound state, and with them every operation that a port or a held operation can
start (R44, R121, R122, R123, R139, R310). -/

namespace Sys2Proof.Machine

/-! ### The connection -/

/-- A result at `HOSTOP` is put out, and nothing else (R10). -/
theorem reply_inv {s : State} (a : Agent) (r : Ret) (h : Inv s) : Inv (s.reply a r) :=
  (beside_ports s (io := s.io.emit (.result a r)) (BitVec.le_refl _) r).inv_still h rfl rfl rfl fun _ => rfl

/-- The state with another connection, the reference and the synchronizers' history forgotten (R121, R122). -/
def State.connected (s : State) (cap : Cap) (v : Version) (valid : Bool) (id : Half) : State :=
  { s with cap := cap, capVersion := v, capValid := valid, nextId := id, ref := { s.ref with valid := false }
           streams := s.streams.map syForget }

/-- A stopped stream stays sound when its history is forgotten, under any connection, also where a conversion of its reader
agent waits (R223; log entries 37, 41). -/
theorem streamInv_forgotten {s : State} {sid : Nat} {st : Stream} {cap : Cap} {v : Version} {valid : Bool} {id : Half}
    (h : StreamInv s sid st) (hp : st.pstate = .awaitingConfiguration) :
    StreamInv (s.connected cap v valid id) sid (syForget st) := by
  obtain ⟨hjob, hparser, hframe, -, hguard⟩ := h
  refine ⟨?_, ?_, hframe, nofun, ?_⟩
  · cases hj : st.job with
    | none =>
      have hfree := (jobSound_none hj).mp hjob
      exact (jobSound_none (st := syForget st) hj).mpr hfree
    | some j =>
      obtain ⟨hw, hu⟩ := (jobSound_some hj).mp hjob
      obtain ⟨hop, hzero, hlock, href, hclock⟩ := waitSound_iff.mp hw
      have hwait := waitSound_iff (s := s.connected cap v valid id) (sid := sid) (w := j.wait)
      exact (jobSound_some (st := syForget st) hj).mpr
        ⟨hwait.mpr ⟨hop, hzero, hlock, fun hr => ⟨(href hr).1, rfl⟩, hclock⟩, hu⟩
  · obtain ⟨hholds, hign, hpos, hhalf, hcnt, -, hdata, -⟩ := hparser
    exact ⟨hholds, hign, hpos, hhalf, hcnt, fun h => absurd (hp.symm.trans h) (by decide), hdata,
      fun h => absurd (hp.symm.trans h) (by decide)⟩
  · obtain ⟨hconf, -, hwhole, hempty⟩ := hguard
    exact ⟨hconf, fun hn => absurd hp hn, hwhole, hempty⟩

/-- A change of the connection, with no command in flight and every stream stopped, leaves a sound state. -/
theorem connected_inv {s : State} {cap : Cap} (v : Version) {valid : Bool} (id : Half) (h : Inv s) (hc : s.cmdHeld = false)
    (ha : s.anyArmed = false) (hcap : valid = true → cap.hdrVariant = 0 ∧ 10 ≤ cap.maxPkt.toNat) :
    Inv (s.connected cap v valid id) := by
  have hfree : s.cmdLock = none := by simpa [State.cmdHeld] using hc
  have hstopped : ∀ st ∈ s.streams, st.pstate = .awaitingConfiguration := by simpa [State.anyArmed] using ha
  refine ⟨h.cfg, ?_, fun sid st hst => ?_, hcap, fun a hl => ?_, ?_, fun x hx => ?_, fun _ => hfree, h.admitted, h.held⟩
  · exact (List.length_map _).trans h.count
  · obtain ⟨st', hst', rfl⟩ : ∃ st', s.streams[sid]? = some st' ∧ syForget st' = st := by
      simpa [State.connected] using hst
    exact streamInv_forgotten (h.streams sid st' hst') (hstopped st' (List.mem_of_getElem? hst'))
  · obtain ⟨sid, rfl, hlt⟩ := h.clkLock a hl
    exact ⟨sid, rfl, by simpa [State.connected] using hlt⟩
  · rintro (hvalid | ⟨st, hmem, hpast⟩)
    · cases hvalid
    · obtain ⟨st', hst', rfl⟩ := List.mem_map.mp hmem
      exact h.refHost (.inr ⟨st', hst', hpast⟩)
  · have hlock := (h.exchange x hx).1
    rw [hfree] at hlock
    cases hlock

/-- `CT.CONNECT` selects a row only where it connects: no command in flight, every stream stopped, a row that fits (R121). -/
theorem connectRow_some {s : State} {v : Version} {table : List CapRow} {r : CapRow} (h : connectRow s v table = some r) :
    s.cmdHeld = false ∧ s.anyArmed = false ∧ r.caps.hdrVariant = 0 ∧ 10 ≤ r.caps.maxPkt.toNat := by
  unfold connectRow at h
  split at h
  · cases h
  · rename_i hno
    simp only [Bool.or_eq_true, not_or, Bool.not_eq_true] at hno
    obtain ⟨⟨⟨-, hheld⟩, harmed⟩, -⟩ := hno
    split at h
    · cases h
    · split at h
      · cases h
      · rename_i hfits
        cases h
        simp only [Bool.or_eq_true, decide_eq_true_eq, not_or, ne_eq, Decidable.not_not, Nat.not_lt] at hfits
        exact ⟨hheld, harmed, hfits.1, hfits.2⟩

theorem ctConnect_inv {s : State} (v : Version) (table : List CapRow) (h : Inv s) : Inv (ctConnect s v table).2 := by
  unfold ctConnect
  split
  · exact h
  · rename_i r hr
    obtain ⟨hheld, harmed, hvariant, hpkt⟩ := connectRow_some hr
    exact connected_inv v 0 h hheld harmed fun _ => ⟨hvariant, hpkt⟩

theorem ctDisconnect_inv {s : State} (h : Inv s) : Inv (ctDisconnect s).2 := by
  unfold ctDisconnect
  split
  · rename_i hlegal
    simp only [disconnectLegal, Bool.and_eq_true, Bool.not_eq_true'] at hlegal
    obtain ⟨⟨-, hheld⟩, harmed⟩ := hlegal
    exact connected_inv s.capVersion s.nextId h hheld harmed nofun
  · exact h

theorem execCtConnect_safe {s : State} (a : Agent) (v : Version) (table : List CapRow) (h : Inv s) :
    Safe (fun _ => True) (execCtConnect a v table s) := by
  unfold execCtConnect
  split
  · trivial
  · exact ⟨reply_inv _ _ (ctConnect_inv v table h), trivial⟩

theorem execCtDisconnect_safe {s : State} (a : Agent) (h : Inv s) : Safe (fun _ => True) (execCtDisconnect a s) := by
  unfold execCtDisconnect
  split
  · trivial
  · exact ⟨reply_inv _ _ (ctDisconnect_inv h), trivial⟩

/-! ### Commands and replies -/

theorem execCtExec_safe {s : State} (a : Agent) (op : Half) (payload : List Byte) (h : Inv s) :
    Safe (RefStays s) (execCtExec a op payload s) := by
  unfold execCtExec
  split
  · trivial
  · rename_i hissuer
    have hissuer : isIssuer a = true := by simpa using hissuer
    have hbeside := beside_ports s (io := s.io.raise (.unsupportedOpcode op)) (BitVec.le_refl _) s.ret
    split
    · exact ⟨reply_inv _ _ (hbeside.inv_still h rfl rfl rfl fun _ => rfl), fun _ => rfl⟩
    · split
      · trivial
      · split
        · have hadmitted : Beside s { s with admitted := s.admitted ++ [⟨a, op, payload⟩], ret := .waiting } :=
            ⟨rfl, rfl, rfl, rfl, rfl, rfl, BitVec.le_refl _, fun c hc => (List.mem_append.mp hc).imp_right fun hc => by
              obtain rfl := List.mem_singleton.mp hc
              exact hissuer, fun _ => .inl⟩
          exact ⟨hadmitted.inv_still h rfl rfl rfl fun _ => rfl, fun _ => rfl⟩
        · exact beginExchange_safe op payload h (.refl s) hissuer

theorem beside_returns (s : State) (r : Ret) : Beside s (s.returns r) := beside_ports s (BitVec.le_refl _) r

theorem execCtFrame_safe {s : State} (op id : Half) (payload : List Byte) (h : Inv s) :
    Safe (RefStays s) (execCtFrame op id payload s) := by
  unfold execCtFrame
  split
  · trivial
  · exact ⟨(beside_returns s _).inv_still h rfl rfl rfl fun _ => rfl, fun _ => rfl⟩

theorem replyAt_safe {s : State} (size op id status : Half) (data : List Byte) (h : Inv s) :
    Safe (RefStays s) (replyAt size op id status data s) :=
  receive_safe _ h (beside_returns s .none) rfl rfl rfl

/-! ### Reset -/

/-- A stream at reset is sound, where nobody is inside `CLK_LOCK` (R311). -/
theorem streamInv_reset {s : State} (sid : Nat) (hc : cfgLegal s.cfg = true) (hl : s.clkLock = none) :
    StreamInv s sid Stream.reset := by
  refine ⟨by simp [jobSound, Stream.reset, hl], ?_, ?_, nofun, ?_⟩
  · exact ⟨rfl, fun _ => rfl, nofun, fun _ => rfl, fun _ _ => rfl, nofun, fun _ => ⟨rfl, rfl⟩, nofun⟩
  · exact frameInv_of_empty hc ⟨rfl, rfl⟩ ⟨rfl, rfl⟩ nofun nofun nofun fun _ => ⟨rfl, rfl, rfl, rfl⟩
  · exact ⟨nofun, fun hn => absurd rfl hn, nofun, fun _ => ⟨rfl, rfl⟩⟩

theorem execHwReset_safe {s : State} (h : Inv s) : Safe (fun _ => True) (execHwReset s) := by
  refine ⟨⟨h.cfg, ?_, fun sid st hst => ?_, nofun, nofun, ?_, nofun, fun _ => rfl, nofun, nofun⟩, trivial⟩
  · exact List.length_replicate.trans h.count
  · obtain rfl := List.eq_of_mem_replicate (List.mem_of_getElem? hst)
    exact streamInv_reset sid h.cfg rfl
  · rintro (hvalid | ⟨st, hmem, hpast⟩)
    · cases hvalid
    · obtain rfl := List.eq_of_mem_replicate hmem
      cases hpast

/-! ### Every operation that may be held -/

theorem stream_lt_of_check {cfg : Cfg} {i : Instr} {sid : Nat} (h : i.check cfg = none) (hs : i.stream? = some sid) :
    sid < cfg.nStreams := by
  rw [Instr.check, hs] at h
  by_contra hlt
  simp [hlt] at h

/-- An operation from a port keeps a sound state sound; the reference stays, but for connecting, disconnecting and reset. -/
theorem exec_safe {s : State} {i : Instr} (h : Inv s) (hi : Holdable s.cfg i) :
    Safe (fun t => RefStays s t ∨ clearsReference i = true) (exec i s) := by
  have hstays {o : Outcome} (ho : Safe (RefStays s) o) : Safe (fun t => RefStays s t ∨ clearsReference i = true) o :=
    ho.mono fun _ => .inl
  have hsid {sid : Nat} (hs : i.stream? = some sid) : sid < s.cfg.nStreams := stream_lt_of_check hi.2 hs
  cases i with
  | ctConnect a v table => exact (execCtConnect_safe a v table h).mono fun _ _ => .inr rfl
  | ctDisconnect a => exact (execCtDisconnect_safe a h).mono fun _ _ => .inr rfl
  | hwReset => exact (execHwReset_safe h).mono fun _ _ => .inr rfl
  | ctExec a op payload => exact hstays (execCtExec_safe a op payload h)
  | prConfigure a sid c => exact hstays (execPrConfigure_safe h hi)
  | prArm a sid => exact hstays (execPrArm_safe h hi)
  | prStop a sid => exact hstays (execPrStop_safe h hi)
  | bdCalibrate a sid cal mn mx => exact hstays (execBdCalibrate_safe h hi)
  | bdReadtable a sid which idx => exact hstays (execBdReadtable_safe h hi)
  | bdUnpack a sid input => exact hstays (execBdUnpack_safe h hi)
  | csTohost a sid tick => exact hstays (execCsTohost_safe h hi)
  | csHostonly a sid => exact hstays (execCsHostonly_safe h hi)
  | prChunk sid bytes => exact hstays (chunkAt_safe h hi)
  | pktSof sid seq size ts => exact hstays (headerAt_safe h (hsid rfl))
  | pktEof sid seq size ts => exact hstays (headerAt_safe h (hsid rfl))
  | pktData sid type seq size ts => exact hstays (headerAt_safe h (hsid rfl))
  | ctFrame op id payload => exact hstays (execCtFrame_safe op id payload h)
  | rspAck size op id data => exact hstays (replyAt_safe size op id _ data h)
  | rspNackCrc size op id data => exact hstays (replyAt_safe size op id _ data h)
  | rspNackBadParams size op id data => exact hstays (replyAt_safe size op id _ data h)
  | rspNackFileNotFound size op id data => exact hstays (replyAt_safe size op id _ data h)
  | rspNackNotReady size op id data => exact hstays (replyAt_safe size op id _ data h)
  | rspNackOverflow size op id data => exact hstays (replyAt_safe size op id _ data h)
  | rspNackFsLocked size op id data => exact hstays (replyAt_safe size op id _ data h)
  | rspNackOther size op id status data => exact hstays (replyAt_safe size op id status data h)
  | _ => cases hi.1

end Sys2Proof.Machine
end

section
/-! PROOFS. A step from a sound state: whatever comes next is an operation from a port, one that was held, a command's or an
agent's turn, or the environment, and each leaves a sound state (R18, R44, R60, R72, R281, R312, U14). -/

namespace Sys2Proof.Machine

/-! ### What a transaction decodes to -/

/-- A `HOSTOP` selector stands for an operation with an encoding. -/
theorem decodeHostop_encodes {a : Agent} {sel : Byte} {x : HostArgs} {i : Instr} (h : decodeHostop a sel x = .ok i) :
    (encode DecodeCtx.ref i).isSome = true := by
  unfold decodeHostop at h
  split at h <;> cases h <;> rfl

/-- A packet's class has an encoding and is of its stream. -/
theorem decodePacket_encodes {ctx : DecodeCtx} {sid : Nat} {hw : BitVec 96} {i : Instr}
    (h : decodePacket ctx sid hw = .ok i) : (encode DecodeCtx.ref i).isSome = true ∧ i.stream? = some sid := by
  unfold decodePacket at h
  dsimp only at h
  split at h
  · cases h
  · split at h
    · cases h
      exact ⟨rfl, rfl⟩
    · split at h <;> cases h <;> exact ⟨rfl, rfl⟩

theorem replyClass_encodes (size op id status : Half) (data : List Byte) :
    (encode DecodeCtx.ref (replyClass size op id status data)).isSome = true := by
  unfold replyClass
  split <;> rfl

theorem decodeReply_encodes {ctx : DecodeCtx} {bytes : List Byte} {i : Instr} (h : decodeReply ctx bytes = .ok i) :
    (encode DecodeCtx.ref i).isSome = true := by
  unfold decodeReply at h
  split at h
  · split at h
    · cases h
    · cases h
      exact replyClass_encodes _ _ _ _ _
  · cases h

theorem decodeInput_encodes {ctx : DecodeCtx} {t : Transaction} {i : Instr} (h : decodeInput ctx t = .ok i) :
    (encode DecodeCtx.ref i).isSome = true := by
  cases t with
  | hostop a sel args => exact decodeHostop_encodes h
  | chunk sid bytes => cases h; rfl
  | packet sid hw => exact (decodePacket_encodes h).1
  | reply bytes => exact decodeReply_encodes h
  | reset => cases h; rfl

/-! ### What comes next -/

/-- A state in which only what waits to begin, and what the environment does next, are others. -/
structure Turned (s t : State) : Prop extends Beside s t where
  exchange : t.exchange = s.exchange
  cmdLock : t.cmdLock = s.cmdLock
  nextId : t.nextId = s.nextId
  io : t.io = s.io

theorem Turned.inv {s t : State} (ht : Turned s t) (h : Inv s) : Inv t :=
  ht.toBeside.inv_still h ht.exchange ht.cmdLock ht.nextId fun _ => by rw [ht.io]

/-- What a turn changes before what it does: the choice made, the stimulus taken, and of what waits one thing. -/
theorem turned_taken (s : State) (n : Nat) (stimuli : List Stimulus) {held : List Instr} {admitted : List Command}
    (hh : ∀ i ∈ held, i ∈ s.held) (ha : ∀ c ∈ admitted, c ∈ s.admitted) :
    Turned s { s with choices := n, stimuli := stimuli, held := held, admitted := admitted } :=
  ⟨⟨rfl, rfl, rfl, rfl, rfl, rfl, BitVec.le_refl _, fun c hc => .inl (ha c hc), fun i hi => .inl (hh i hi)⟩, rfl, rfl, rfl, rfl⟩

/-- A choice that a sound state offers: what runs or is held may be held, and only the turn has been taken. -/
def Choice.Sound (s : State) : Choice → Prop
  | .idle => True
  | .refuse _ => True
  | .supply _ t => Turned s t
  | .hold i t => Turned s t ∧ Holdable s.cfg i
  | .run i t => Turned s t ∧ Holdable s.cfg i
  | .grantLock c t => Turned s t ∧ isIssuer c.agent = true
  | .resumeReader _ t => Turned s t
  | .resumeExchange t => Turned s t

theorem begin_sound {s t : State} {i later : Instr} (ht : Turned s t) (he : (encode DecodeCtx.ref i).isSome = true)
    (hlater : i.check s.cfg = none → Holdable s.cfg later) : (t.begin i later).Sound s := by
  unfold State.begin
  rw [ht.cfg]
  split
  · trivial
  · rename_i hcheck
    split
    · exact ⟨ht, hlater hcheck⟩
    · exact ⟨ht, he, hcheck⟩

/-- A chunk for a stream that there is may be held. -/
theorem chunk_holdable {cfg : Cfg} {sid : Nat} (bytes : List Byte) (h : sid < cfg.nStreams) :
    Holdable cfg (.prChunk sid bytes) := ⟨rfl, by simp [Instr.check, Instr.stream?, Instr.operandProblem, h]⟩

theorem start_sound {s t : State} (ht : Turned s t) (x : Transaction) : (t.start x).Sound s := by
  cases hd : decodeInput (t.decodeCtx x) x with
  | ok i =>
    have he := decodeInput_encodes hd
    rw [start_of_decode hd]
    refine begin_sound ht he fun hcheck => ?_
    cases x with
    | packet sid hw => exact chunk_holdable _ (stream_lt_of_check hcheck (decodePacket_encodes hd).2)
    | hostop a sel args => exact ⟨he, hcheck⟩
    | chunk sid bytes => exact ⟨he, hcheck⟩
    | reply bytes => exact ⟨he, hcheck⟩
    | reset => exact ⟨he, hcheck⟩
  | error e =>
    unfold State.start
    rw [hd]
    cases x with
    | packet sid hw => exact begin_sound ht rfl fun hcheck => ⟨rfl, hcheck⟩
    | reply bytes => exact ht
    | hostop a sel args => trivial
    | chunk sid bytes => trivial
    | reset => trivial

theorem nextStimulus_sound {s : State} (n : Nat) : ({ s with choices := n }.nextStimulus).Sound s := by
  have hturned (rest : List Stimulus) := turned_taken s n rest (fun _ => id) (fun _ => id)
  unfold State.nextStimulus
  split
  · trivial
  · exact start_sound (hturned _) _
  · exact hturned _

theorem select_sound {s : State} (h : Inv s) : s.select.Sound s := by
  have hturned := turned_taken s s.choicesAfter s.stimuli (fun _ => id) (fun _ => id)
  unfold State.select
  split
  · trivial
  · rename_i t _
    cases t with
    | held k =>
      show Choice.Sound s (match s.held[k]? with | none => _ | some i => _)
      split
      · trivial
      · rename_i i hi
        exact ⟨turned_taken s _ _ (fun _ => List.mem_of_mem_eraseIdx) (fun _ => id), h.held i (List.mem_of_getElem? hi)⟩
    | admitted k =>
      show Choice.Sound s (match s.admitted[k]? with | none => _ | some c => _)
      split
      · trivial
      · rename_i c hc
        exact ⟨turned_taken s _ _ (fun _ => id) (fun _ => List.mem_of_mem_eraseIdx), h.admitted c (List.mem_of_getElem? hc)⟩
    | reader sid => exact hturned
    | exchange => exact hturned
    | stimulus => exact nextStimulus_sound _

/-! ### What it does -/

/-- The operation a choice runs, none where it runs none. -/
def Choice.runs : Choice → Option Instr
  | .run i _ => some i
  | _ => none

theorem stepRuns_eq (s : State) : stepRuns s = s.select.runs := by
  unfold stepRuns Choice.runs
  cases s.select <;> rfl

theorem supply_safe {s : State} (x : Stimulus) (h : Inv s) : Safe (RefStays s) (s.supply x) := by
  have hports (io : Io) (hclock : s.io.clock.last ≤ io.clock.last) (hq : io.recvQ = s.io.recvQ) :
      Safe (RefStays s) (.next { s with io := io }) :=
    ⟨(beside_ports s hclock s.ret).inv_still h rfl rfl rfl fun _ => hq, fun _ => rfl⟩
  cases x with
  | clock vs rest => exact hports _ (BitVec.le_refl _) rfl
  | send vs rest => exact hports _ (BitVec.le_refl _) rfl
  | recv vs => exact receive_safe vs h (.refl s) rfl rfl rfl
  | locks granted => exact hports _ (BitVec.le_refl _) rfl
  | port t => exact hports s.io (BitVec.le_refl _) rfl

/-- What a sound choice does leaves a sound state. -/
theorem perform_safe {s : State} {c : Choice} (h : Inv s) (hc : c.Sound s) :
    Safe (fun t => RefStays s t ∨ c.runs.any clearsReference = true) (s.perform c) := by
  have hstays {t : State} {o : Outcome} (ht : Turned s t) (ho : Safe (RefStays t) o) :
      Safe (fun t => RefStays s t ∨ c.runs.any clearsReference = true) o :=
    ho.mono fun u hu => .inl fun hv => (hu (by rw [ht.ref]; exact hv)).trans ht.ref
  cases c with
  | idle => exact ⟨h, .inl fun _ => rfl⟩
  | refuse r => trivial
  | supply x t => exact hstays hc (supply_safe x (hc.inv h))
  | hold i t =>
    obtain ⟨ht, hi⟩ := hc
    exact hstays ht (hold_safe (ht.inv h) (ht.cfg ▸ hi))
  | run i t =>
    obtain ⟨ht, hi⟩ := hc
    refine (exec_safe (ht.inv h) (ht.cfg ▸ hi)).mono fun u hu => hu.imp_left fun hu hv => ?_
    exact (hu (by rw [ht.ref]; exact hv)).trans ht.ref
  | grantLock c t =>
    obtain ⟨ht, hi⟩ := hc
    exact hstays ht (beginExchange_safe c.op c.payload (ht.inv h) (.refl t) hi)
  | resumeReader sid t => exact hstays hc (resumeReader_safe (hc.inv h))
  | resumeExchange t => exact hstays hc (resumeExchange_safe (hc.inv h) (.refl t) rfl rfl rfl)

/-- A step from a sound state leaves a sound state; the reference stays unless an operation that may clear it has run; the only
fault is a value beyond 64 bits (R44, U14). -/
theorem step_safe {s : State} (h : Inv s) :
    Safe (fun t => RefStays s t ∨ (stepRuns s).any clearsReference = true) (step s) := by
  rw [step_eq_perform h.cfg, stepRuns_eq]
  exact perform_safe h (select_sound h)

end Sys2Proof.Machine

namespace Sys2Proof.Settled

open Machine

/-- Settles O8: every step is safe (`step_safe`), by the parts of the machine it is made of. -/
theorem stepKeepsInv : Obligations.StepKeepsInv := by
  intro s t h ht
  have hsafe := step_safe h
  rw [ht] at hsafe
  obtain ⟨hinv, href⟩ := hsafe
  exact ⟨hinv, fun hv => href.imp_left fun hstays => hstays hv⟩

/-- Settles O9: every step is safe (`step_safe`), and a safe fault is a value beyond 64 bits. -/
theorem stepFaultsOnlyWidth : Obligations.StepFaultsOnlyWidth := by
  intro s e h he
  have hsafe := step_safe h
  rw [he] at hsafe
  exact hsafe

end Sys2Proof.Settled
end

section
/-! PROOFS. What the operations of the command transport leave alone, connecting and disconnecting included (R3, R78, R121,
R122, R298), and where a stream's operations wait for its lock or its reader agent (R72, R75, R281). -/

namespace Sys2Proof.Machine

/-! ### What a command exchange writes -/

/-- A state with the registers, the ports and the result that a command exchange works with taken from another (R27, R28). -/
def State.commanded (s t : State) : State :=
  { s with nextId := t.nextId, cmdLock := t.cmdLock, exchange := t.exchange, admitted := t.admitted, io := t.io,
           ret := t.ret }

/-- From the one state to the other nothing changed but what a command exchange works with. -/
def CommandOnly (s t : State) : Prop := t = s.commanded t

theorem CommandOnly.trans {s t u : State} (h : CommandOnly s t) (h' : CommandOnly t u) : CommandOnly s u :=
  Eq.trans h' (congrArg (·.commanded u) h)

/-- The next state of an outcome, where it has one, differs only in what a command exchange works with. -/
def Commands (s : State) (o : Outcome) : Prop := ∀ t, o = .next t → CommandOnly s t

section Commands

variable {s : State}

theorem commands_next {t : State} (h : CommandOnly s t) : Commands s (.next t) := by
  rintro _ ⟨⟩
  exact h

theorem commands_refused (r : Refusal) : Commands s (.refused r) := by
  rintro _ ⟨⟩

theorem Commands.after {s' : State} {o : Outcome} (h : CommandOnly s s') (ho : Commands s' o) : Commands s o :=
  fun t ht => h.trans (ho t ht)

theorem settle_commands (out : Option ExecResult × CtCtx) : Commands s (s.settle out) := by
  obtain ⟨r, c⟩ := out
  cases r with
  | none =>
    rw [State.settle]
    split
    · exact commands_refused _
    · exact commands_next rfl
  | some r => exact commands_next rfl

theorem beginExchange_commands (a : Agent) (op : Half) (payload : List Byte) :
    Commands s (s.beginExchange a op payload) := by
  unfold State.beginExchange
  split
  · exact commands_refused _
  · exact .after (by exact rfl) (settle_commands _)

theorem resumeExchange_commands : Commands s s.resumeExchange := by
  unfold State.resumeExchange
  split
  · exact commands_next rfl
  · exact settle_commands _

/-- A reply is queued, and taken by the exchange that waits for one (R10, R139). -/
theorem replyAt_commands (size op id status : Half) (data : List Byte) :
    Commands s (replyAt size op id status data s) := by
  unfold replyAt State.receive
  dsimp only
  split
  · exact .after (by exact rfl) resumeExchange_commands
  · exact commands_next rfl

theorem onExchange_commands (f : CtCtx → Ret × CtCtx) : Commands s (s.onExchange f) := by
  unfold State.onExchange
  split
  · exact commands_refused _
  · dsimp only
    split
    · exact commands_refused _
    · exact commands_next rfl

/-- `CT.EXEC` is refused, answered at once, admitted, or begins its exchange (R123). -/
theorem execCtExec_commands (a : Agent) (op : Half) (payload : List Byte) : Commands s (execCtExec a op payload s) := by
  unfold execCtExec
  split
  · exact commands_refused _
  split
  · exact commands_next rfl
  split
  · exact commands_refused _
  split
  · exact commands_next rfl
  · exact beginExchange_commands a op payload

theorem execCtFrame_commands (op id : Half) (payload : List Byte) : Commands s (execCtFrame op id payload s) := by
  unfold execCtFrame
  split
  · exact commands_refused _
  · exact commands_next rfl

theorem execCtSendr_commands (frame : List Byte) : Commands s (execCtSendr frame s) := by
  unfold execCtSendr
  split
  · exact commands_refused _
  · exact onExchange_commands _

theorem execCtStatus_commands (body : List Byte) : Commands s (execCtStatus body s) := by
  unfold execCtStatus
  split
  · exact commands_refused _
  · exact commands_next rfl

/-- An operation of no stream that cannot clear the reference writes what a command exchange works with, and no more (R78,
R298). -/
theorem exec_commands {i : Instr} (h : i.stream? = none) (hc : clearsReference i = false) : Commands s (exec i s) := by
  cases i <;> cases h
  case ctConnect => cases hc
  case ctDisconnect => cases hc
  case hwReset => cases hc
  case ctExec a op payload => exact execCtExec_commands a op payload
  case ctFrame op id payload => exact execCtFrame_commands op id payload
  case ctSendr frame => exact execCtSendr_commands frame
  case ctScan chunk => exact commands_next rfl
  case ctStatus body => exact execCtStatus_commands body
  case ctRecvr => exact (onExchange_commands _ : Commands s (execCtRecvr s))
  case ctAttempt => exact (onExchange_commands _ : Commands s (execCtAttempt s))
  case ctMatch hdr => exact (onExchange_commands _ : Commands s (execCtMatch hdr s))
  case ctGather chunk hdr => exact (onExchange_commands _ : Commands s (execCtGather chunk hdr s))
  case rspAck size op id data => exact replyAt_commands size op id _ data
  case rspNackCrc size op id data => exact replyAt_commands size op id _ data
  case rspNackBadParams size op id data => exact replyAt_commands size op id _ data
  case rspNackFileNotFound size op id data => exact replyAt_commands size op id _ data
  case rspNackNotReady size op id data => exact replyAt_commands size op id _ data
  case rspNackOverflow size op id data => exact replyAt_commands size op id _ data
  case rspNackFsLocked size op id data => exact replyAt_commands size op id _ data
  case rspNackOther size op id status data => exact replyAt_commands size op id status data

end Commands

/-! ### What connecting and disconnecting write -/

/-- A state with the connection, the streams' records, the ports and the result taken from another, and of the reference its
validity alone (R121, R122). -/
def State.reconnected (s t : State) : State :=
  { s with cap := t.cap, capVersion := t.capVersion, capValid := t.capValid, nextId := t.nextId
           ref := { s.ref with valid := t.ref.valid }, streams := t.streams, io := t.io, ret := t.ret }

theorem ctConnect_reconnects (s : State) (v : Version) (table : List CapRow) :
    (ctConnect s v table).2 = s.reconnected (ctConnect s v table).2 := by
  unfold ctConnect
  split <;> rfl

theorem ctDisconnect_reconnects (s : State) : (ctDisconnect s).2 = s.reconnected (ctDisconnect s).2 := by
  unfold ctDisconnect
  split <;> rfl

/-- A result is put out at a port, which a reconnected state takes from elsewhere. -/
theorem reply_reconnects {s t : State} (h : t = s.reconnected t) (a : Agent) (r : Ret) :
    t.reply a r = s.reconnected (t.reply a r) :=
  congrArg (·.reply a r) h

theorem execCtConnect_reconnects {s t : State} {a : Agent} {v : Version} {table : List CapRow}
    (h : execCtConnect a v table s = .next t) : t = s.reconnected t := by
  unfold execCtConnect at h
  split at h
  · cases h
  · cases h
    exact reply_reconnects (ctConnect_reconnects s v table) a _

theorem execCtDisconnect_reconnects {s t : State} {a : Agent} (h : execCtDisconnect a s = .next t) :
    t = s.reconnected t := by
  unfold execCtDisconnect at h
  split at h
  · cases h
  · cases h
    exact reply_reconnects (ctDisconnect_reconnects s) a _

/-! ### Where an operation of a stream waits to begin -/

theorem Stream.locked_eq_true {st : Stream} : st.locked = true ↔ st.lock ≠ none := Option.isSome_iff_ne_none

theorem Stream.inJob_eq_true {st : Stream} : st.inJob = true ↔ st.job ≠ none := Option.isSome_iff_ne_none

section Waits

variable {s : State} {sid : Nat} {st : Stream}

/-- A host operation of the `HOST` row whose stream's lock is held waits (R72, R75). -/
theorem exec_host_locked {cal : CalRecord} {mn mx : Half} {which : TableSel} {idx : Nat} {i : Instr}
    (hs : s.streams[sid]? = some st) (hl : st.lock ≠ none)
    (hi : i ∈ [Instr.prArm .host sid, .prStop .host sid, .bdCalibrate .host sid cal mn mx,
      .bdReadtable .host sid which idx]) : exec i s = .next (s.hold i) := by
  simp only [List.mem_cons, List.not_mem_nil, or_false] at hi
  obtain rfl | rfl | rfl | rfl := hi
  · exact (onHost_locked hs hl : execPrArm .host sid s = _)
  · exact (onHost_locked hs hl : execPrStop .host sid s = _)
  · exact (onHost_locked hs hl : execBdCalibrate .host sid cal mn mx s = _)
  · exact (onHost_locked hs hl : execBdReadtable .host sid which idx s = _)

/-- `PR.CONFIGURE` tests the codec's domain before it comes to the lock (R162, U13). -/
theorem exec_prConfigure_locked {c : StreamConfig} (hs : s.streams[sid]? = some st) (hl : st.lock ≠ none)
    (hc : codecOutOfDomain s.cfg c.codec = false) :
    exec (.prConfigure .host sid c) s = .next (s.hold (.prConfigure .host sid c)) := by
  rw [exec, execPrConfigure, if_neg (by simp [hc])]
  exact onHost_locked hs hl

/-- `BD.UNPACK` waits for the lock whichever agent of the block starts it (R75, R287). -/
theorem exec_bdUnpack_locked {a : Agent} {bytes : List Byte} (hs : s.streams[sid]? = some st) (hl : st.lock ≠ none)
    (ha : agentExists s.cfg a = true) : exec (.bdUnpack a sid bytes) s = .next (s.hold (.bdUnpack a sid bytes)) := by
  rw [exec, execBdUnpack, ha]
  exact onHost_locked hs hl

/-- A chunk waits for its stream's lock and for its reader agent (R75, R281). -/
theorem chunkAt_waits (bytes : List Byte) (hs : s.streams[sid]? = some st) (h : st.lock ≠ none ∨ st.job ≠ none) :
    chunkAt sid bytes s = .next (s.hold (.prChunk sid bytes)) :=
  onReader_waits hs (by simpa [Stream.locked_eq_true, Stream.inJob_eq_true] using h)

/-- A packet's header waits as the chunk it is (R91, R281; log entry 32). -/
theorem headerAt_waits (type : Stream → Half) (seq size : Half) (ts : Tick) (hs : s.streams[sid]? = some st)
    (h : st.lock ≠ none ∨ st.job ≠ none) : headerAt sid type seq size ts s =
      .next (s.hold (.prChunk sid (headerBytes s.cap.magicD2H (type st) seq size ts))) := by
  simp only [headerAt, hs]
  exact chunkAt_waits _ hs h

/-- A reader agent that is inside a conversion begins neither another nor a part of the parser that may come to one (R281). -/
theorem exec_reader_inJob {bytes : List Byte} {pos : Nat} {tick : Tick} {i : Instr} (hs : s.streams[sid]? = some st)
    (hj : st.job ≠ none) (hp : pos < bytes.length)
    (hi : i ∈ [Instr.csTohost (.rd sid) sid tick, .csHostonly (.rd sid) sid, .csEstablish ⟨sid, tick⟩, .csInit sid tick,
      .csResync sid tick, .prHdr sid bytes pos, .prPktstart sid, .prTime sid]) : exec i s = .next (s.hold i) := by
  have hbusy := Stream.inJob_eq_true.mpr hj
  simp only [List.mem_cons, List.not_mem_nil, or_false] at hi
  obtain rfl | rfl | rfl | rfl | rfl | rfl | rfl | rfl := hi
  · rw [exec, execCsTohost, if_neg (by simp)]
    exact onReader_waits hs hbusy
  · rw [exec, execCsHostonly, if_neg (by simp)]
    exact onReader_waits hs hbusy
  · exact onReader_waits hs hbusy
  · exact onReader_waits hs hbusy
  · exact onReader_waits hs hbusy
  · rw [exec, execPrHdr, if_neg (Nat.not_le.mpr hp)]
    exact onReader_waits hs hbusy
  · exact onReader_waits hs hbusy
  · exact onReader_waits hs hbusy

end Waits

end Sys2Proof.Machine

namespace Sys2Proof.Settled

open Machine

/-- Settles O13: by what every other command operation writes, and by what the two operations of the connection write of the
state and of the streams' records. -/
theorem commandFrame : Obligations.CommandFrame := by
  intro i s t ht
  refine ⟨fun h hc => exec_commands h hc t ht, ?_⟩
  rintro (⟨a, v, table, rfl⟩ | ⟨a, rfl⟩)
  · exact ⟨execCtConnect_reconnects ht, execCtConnect_streamsStay a v table t ht⟩
  · exact ⟨execCtDisconnect_reconnects ht, execCtDisconnect_streamsStay a t ht⟩

/-- Settles O34: an operation that cannot begin is held (`onHost_locked`, `onReader_waits`), each after the tests that come
before the lock. -/
theorem locksWait : Obligations.LocksWait := by
  intro s sid st hs held
  refine ⟨fun hl c cal mn mx which idx a bytes => ?host, fun h bytes type seq size ts => ?chunk,
    fun hj bytes pos tick hp i hi => exec_reader_inJob hs hj hp hi⟩
  case host =>
    exact ⟨exec_prConfigure_locked hs hl, fun i hi => exec_host_locked hs hl hi, exec_bdUnpack_locked hs hl⟩
  case chunk =>
    exact ⟨chunkAt_waits bytes hs h, headerAt_waits _ seq size ts hs h, headerAt_waits _ seq size ts hs h,
      headerAt_waits _ seq size ts hs h⟩

end Sys2Proof.Settled
end

section
/-! PROOFS. The decoder and the encoder undo each other (R91, R92, R94, R97, R99, R108): for each format of an encoding what its
words decode to, and the words written out again; and the worked words of R107. -/

namespace Sys2Proof.Machine

/-! ### The header word of a packet -/

/-- A field that lies above the lowest one is a field of the rest. -/
theorem extractLsb'_above {m n : Nat} (hi : BitVec m) (lo : BitVec n) (start len : Nat) :
    (hi ++ lo).extractLsb' (n + start) len = hi.extractLsb' start len := by
  rw [BitVec.extractLsb'_append_eq_of_le (Nat.le_add_right n start), Nat.add_sub_cancel_left]

/-- The fields of a header word are those it was built from (R91). -/
theorem headerWord_fields (magic type seq size : Half) (ts : Tick) :
    let hw := headerWord magic type seq size ts
    hw.extractLsb' 0 16 = magic ∧ hw.extractLsb' 16 16 = type ∧ hw.extractLsb' 32 16 = seq ∧
      hw.extractLsb' 48 16 = size ∧ hw.extractLsb' 64 32 = ts := by
  have aboveMagic := extractLsb'_above (ts ++ size ++ seq ++ type) magic
  have aboveType := extractLsb'_above (ts ++ size ++ seq) type
  have aboveSeq := extractLsb'_above (ts ++ size) seq
  refine ⟨BitVec.extractLsb'_append_eq_right, (aboveMagic 0 16).trans BitVec.extractLsb'_append_eq_right, ?_, ?_, ?_⟩
  · exact ((aboveMagic 16 16).trans (aboveType 0 16)).trans BitVec.extractLsb'_append_eq_right
  · exact (((aboveMagic 32 16).trans (aboveType 16 16)).trans (aboveSeq 0 16)).trans BitVec.extractLsb'_append_eq_right
  · exact (((aboveMagic 48 32).trans (aboveType 32 32)).trans (aboveSeq 16 32)).trans BitVec.extractLsb'_append_eq_left

/-- A header word is built from its fields (R91). -/
theorem headerWord_of_fields (hw : BitVec 96) :
    headerWord (hw.extractLsb' 0 16) (hw.extractLsb' 16 16) (hw.extractLsb' 32 16) (hw.extractLsb' 48 16)
      (hw.extractLsb' 64 32) = hw := by
  have join (start len : Nat) :
      hw.extractLsb' (start + 16) len ++ hw.extractLsb' start 16 = hw.extractLsb' start (len + 16) :=
    BitVec.extractLsb'_append_extractLsb'_eq_extractLsb' rfl
  rw [headerWord, join 48 32, join 32 48, join 16 64, join 0 80]
  exact BitVec.extractLsb'_eq_self

/-- The class of a packet is by its type, start of frame first (R94). -/
def packetClass (ctx : DecodeCtx) (sid : Nat) (type seq size : Half) (ts : Tick) : Instr :=
  if type = ctx.typeSof then .pktSof sid seq size ts
  else if type = ctx.typeEof then .pktEof sid seq size ts
  else .pktData sid type seq size ts

/-- A header word with the magic decodes to its class (R91, R94). -/
theorem decodePacket_headerWord (ctx : DecodeCtx) (sid : Nat) (type seq size : Half) (ts : Tick) :
    decodePacket ctx sid (headerWord ctx.magicD2H type seq size ts) = .ok (packetClass ctx sid type seq size ts) := by
  obtain ⟨hmagic, htype, hseq, hsize, hts⟩ := headerWord_fields ctx.magicD2H type seq size ts
  simp only [decodePacket, hmagic, htype, hseq, hsize, hts, ne_eq, not_true_eq_false, if_false, packetClass,
    apply_ite Except.ok]

/-- Only a header word with the magic decodes (R91). -/
theorem headerWord_of_decodePacket {ctx : DecodeCtx} {sid : Nat} {hw : BitVec 96} {i : Instr}
    (h : decodePacket ctx sid hw = .ok i) : ∃ type seq size ts, hw = headerWord ctx.magicD2H type seq size ts := by
  have hmagic : hw.extractLsb' 0 16 = ctx.magicD2H := by
    by_contra hne
    simp [decodePacket, hne] at h
  exact ⟨_, _, _, _, by rw [← hmagic, headerWord_of_fields]⟩

/-- A packet's class is encoded by its header word, and its encoding carries it (R91, R94). -/
theorem encode_packetClass (ctx : DecodeCtx) (sid : Nat) (type seq size : Half) (ts : Tick) :
    encode ctx (packetClass ctx sid type seq size ts) =
        some (.input (.packet sid (headerWord ctx.magicD2H type seq size ts))) ∧
      encodable ctx (packetClass ctx sid type seq size ts) = true := by
  unfold packetClass
  split
  case isTrue hsof => simp [encode, encodable, hsof]
  case isFalse hsof =>
    split
    case isTrue heof => simp [encode, encodable, heof, heof ▸ Ne.symm hsof]
    case isFalse heof => simp [encode, encodable, hsof, heof]

/-! ### Requests and replies -/

theorem eq_ofNat_of_toNat_eq {x : Half} {n : Nat} (h : x.toNat = n) : x = BitVec.ofNat 16 n := by
  rw [← h, BitVec.ofNat_toNat, BitVec.setWidth_eq]

/-- The two bytes of a half are those it was read from (R12). -/
@[simp] theorem halfBytes_le16 (b0 b1 : Byte) : halfBytes (le16 b0 b1) = [b0, b1] := by
  have hlo : loByte (le16 b0 b1) = b0 := BitVec.extractLsb'_append_eq_right
  have hhi : hiByte (le16 b0 b1) = b1 := BitVec.extractLsb'_append_eq_left
  rw [halfBytes, hlo, hhi]

/-- A request frame decodes to its request, where its size field holds the payload's length (R92). -/
theorem decodeRequest_frameBytes (ctx : DecodeCtx) (op id : Half) {payload : List Byte} (h : payload.length < 65536) :
    decodeRequest ctx (frameBytes ctx.magicH2D op id payload) = .ok (.ctFrame op id payload) := by
  simp [frameBytes, halfBytes, decodeRequest, Nat.mod_eq_of_lt h]

/-- Only the frame of a request decodes to it (R92). -/
theorem frameBytes_of_decodeRequest {ctx : DecodeCtx} {bytes : List Byte} {i : Instr} (h : decodeRequest ctx bytes = .ok i) :
    ∃ op id payload, i = .ctFrame op id payload ∧ payload.length < 65536 ∧ bytes = frameBytes ctx.magicH2D op id payload := by
  unfold decodeRequest at h
  split at h
  case h_2 => cases h
  case h_1 m0 m1 s0 s1 o0 o1 i0 i1 payload =>
    split at h
    · cases h
    · rename_i hmagic
      split at h
      · cases h
      · rename_i hsize
        cases h
        simp only [ne_eq, Decidable.not_not] at hmagic hsize
        exact ⟨_, _, _, rfl, hsize ▸ (le16 s0 s1).isLt,
          by simp [frameBytes, ← eq_ofNat_of_toNat_eq hsize, ← hmagic]⟩

/-- A reply decodes to the class of its status (R97, R99). -/
theorem decodeReply_replyBytes (ctx : DecodeCtx) (size op id status : Half) (data : List Byte) :
    decodeReply ctx (replyBytes ctx.magicD2H size op id status data) = .ok (replyClass size op id status data) := by
  simp [replyBytes, halfBytes, decodeReply]

/-- Only a reply with the magic decodes, to the class of its status (R97, R99). -/
theorem replyBytes_of_decodeReply {ctx : DecodeCtx} {bytes : List Byte} {i : Instr} (h : decodeReply ctx bytes = .ok i) :
    ∃ size op id status data, bytes = replyBytes ctx.magicD2H size op id status data ∧
      i = replyClass size op id status data := by
  unfold decodeReply at h
  split at h
  case h_2 => cases h
  case h_1 m0 m1 s0 s1 o0 o1 i0 i1 t0 t1 data =>
    split at h
    · cases h
    · rename_i hmagic
      cases h
      simp only [ne_eq, Decidable.not_not] at hmagic
      exact ⟨_, _, _, _, _, by simp [replyBytes, ← hmagic], rfl⟩

/-- The class of a status that the table of R99 does not name. -/
theorem replyClass_other {status : Half} (size op id : Half) (data : List Byte)
    (h : status.toNat ∉ [0x0000, 0x0003, 0x0005, 0x0007, 0x000D, 0x000E, 0x0010]) :
    replyClass size op id status data = .rspNackOther size op id status data := by
  simp only [List.mem_cons, List.not_mem_nil, or_false, not_or] at h
  unfold replyClass
  split <;> simp_all

/-- A reply's class is encoded by its bytes, and its encoding carries it (R97, R99). -/
theorem encode_replyClass (ctx : DecodeCtx) (size op id status : Half) (data : List Byte) :
    encode ctx (replyClass size op id status data) =
        some (.input (.reply (replyBytes ctx.magicD2H size op id status data))) ∧
      encodable ctx (replyClass size op id status data) = true := by
  unfold replyClass
  split
  case h_8 => simp_all [encode, encodable]
  all_goals
    rename_i h
    rw [eq_ofNat_of_toNat_eq h]
    exact ⟨rfl, rfl⟩

end Sys2Proof.Machine

namespace Sys2Proof.Settled

open Machine

/-- Settles O1, by the format of each operation's encoding: a header word, a request frame, a reply, or the operands of a
selector, which stand in it as they are. -/
theorem decodeEncode : Obligations.DecodeEncode := by
  intro ctx i e he hcarried
  cases i
  case pktSof sid seq size ts =>
    cases he
    simp [decode, decodeInput, decodePacket_headerWord, packetClass]
  case pktEof sid seq size ts =>
    cases he
    have hne : ctx.typeEof ≠ ctx.typeSof := Ne.symm (by simpa [encodable] using hcarried)
    simp [decode, decodeInput, decodePacket_headerWord, packetClass, hne]
  case pktData sid type seq size ts =>
    cases he
    have hne : type ≠ ctx.typeSof ∧ type ≠ ctx.typeEof := by simpa [encodable] using hcarried
    simp [decode, decodeInput, decodePacket_headerWord, packetClass, hne]
  case ctFrame op id payload =>
    cases he
    exact decodeRequest_frameBytes ctx op id (by simpa [encodable] using hcarried)
  case rspNackOther size op id status data =>
    cases he
    have hother : status.toNat ∉ [0x0000, 0x0003, 0x0005, 0x0007, 0x000D, 0x000E, 0x0010] := by
      simpa [encodable] using hcarried
    exact (decodeReply_replyBytes ..).trans (congrArg _ (replyClass_other size op id data hother))
  case rspAck | rspNackCrc | rspNackBadParams | rspNackFileNotFound | rspNackNotReady | rspNackOverflow | rspNackFsLocked =>
    cases he
    exact decodeReply_replyBytes ..
  case ctConnect | ctDisconnect | ctExec | prConfigure | prArm | prStop | bdCalibrate | bdReadtable | bdUnpack | csTohost |
      csHostonly | prChunk | hwReset =>
    cases he
    rfl
  all_goals cases he

/-- Settles O2: what a format decodes to is encoded by the word it was decoded from. -/
theorem encodeDecode : Obligations.EncodeDecode := by
  intro ctx i e hbytes hdecoded
  cases e with
  | request bytes =>
    obtain ⟨op, id, payload, rfl, hlen, rfl⟩ := frameBytes_of_decodeRequest hdecoded
    exact ⟨rfl, decide_eq_true hlen⟩
  | input t =>
    cases t with
    | hostop a sel args => exact absurd rfl (hbytes a sel args)
    | chunk sid bytes => cases hdecoded; exact ⟨rfl, rfl⟩
    | reset => cases hdecoded; exact ⟨rfl, rfl⟩
    | reply bytes =>
      obtain ⟨size, op, id, status, data, rfl, rfl⟩ := replyBytes_of_decodeReply hdecoded
      exact encode_replyClass ctx size op id status data
    | packet sid hw =>
      obtain ⟨type, seq, size, ts, rfl⟩ := headerWord_of_decodePacket hdecoded
      have hclass := (decodePacket_headerWord ctx sid type seq size ts).symm.trans hdecoded
      cases hclass
      exact encode_packetClass ctx sid type seq size ts

/-- Settles O3. -/
theorem decodeWords : Obligations.DecodeWords := by
  refine ⟨?_, ?_, ?_, ?_, ?_, ?_⟩ <;> decide

end Sys2Proof.Settled
end

section
/-! PROOFS. Connecting (R102, R121, R137, R149): the order of versions, the row it selects, and what `CT.CONNECT` does. -/

namespace Sys2Proof.Machine

/-! ### The order of versions -/

/-- Versions are compared lexicographically (R102). -/
theorem versionLe_iff (a b : Version) : versionLe a b = true ↔
    a.major.toNat < b.major.toNat ∨ (a.major = b.major ∧
      (a.minor.toNat < b.minor.toNat ∨ (a.minor = b.minor ∧ a.build.toNat ≤ b.build.toNat))) := by
  simp [versionLe, BitVec.lt_def, BitVec.le_def]

theorem versionLe_refl (a : Version) : versionLe a a = true := by simp [versionLe_iff]

theorem versionLe_trans {a b c : Version} (hab : versionLe a b = true) (hbc : versionLe b c = true) :
    versionLe a c = true := by
  simp only [versionLe_iff, BitVec.toNat_eq] at *
  omega

theorem versionLe_antisymm {a b : Version} (hab : versionLe a b = true) (hba : versionLe b a = true) : a = b := by
  obtain ⟨major, minor, build⟩ := a
  obtain ⟨major', minor', build'⟩ := b
  simp only [versionLe_iff, BitVec.toNat_eq, Version.mk.injEq] at *
  omega

/-- Of two versions one is not above the other. -/
theorem versionLe_of_not {a b : Version} (h : versionLe a b ≠ true) : versionLe b a = true := by
  simp only [ne_eq, versionLe_iff, BitVec.toNat_eq] at *
  omega

/-! ### The selected row -/

/-- A row of a table whose threshold is the greatest of those not above the version (R121). -/
structure Selects (v : Version) (table : List CapRow) (r : CapRow) : Prop where
  mem : r ∈ table
  fits : versionLe r.threshold v = true
  greatest : ∀ q ∈ table, versionLe q.threshold v = true → versionLe q.threshold r.threshold = true

section Selection

variable {v : Version} {p best : CapRow} {rows table : List CapRow}

/-- The only row that fits is selected. -/
theorem selects_only (hp : versionLe p.threshold v = true) (habove : ∀ q ∈ rows, versionLe q.threshold v ≠ true) :
    Selects v (p :: rows) p :=
  ⟨List.mem_cons_self, hp, List.forall_mem_cons.mpr ⟨fun _ => versionLe_refl _, fun q hq hv => absurd hv (habove q hq)⟩⟩

/-- A row that does not exceed the selected one does not replace it. -/
theorem Selects.keeps (h : Selects v rows best)
    (hp : versionLe p.threshold v = true → versionLe p.threshold best.threshold = true) : Selects v (p :: rows) best :=
  ⟨List.mem_cons_of_mem p h.mem, h.fits, List.forall_mem_cons.mpr ⟨hp, h.greatest⟩⟩

/-- A row that fits and is not below the selected one replaces it. -/
theorem Selects.replaced (h : Selects v rows best) (hp : versionLe p.threshold v = true)
    (hle : versionLe best.threshold p.threshold = true) : Selects v (p :: rows) p :=
  ⟨List.mem_cons_self, hp,
    List.forall_mem_cons.mpr ⟨fun _ => versionLe_refl _, fun q hq hv => versionLe_trans (h.greatest q hq hv) hle⟩⟩

/-- What `capabilitiesFor` finds is selected; where it finds nothing every threshold is above the version (R137). -/
theorem capabilitiesFor_spec (v : Version) (table : List CapRow) :
    (∀ r, capabilitiesFor v table = some r → Selects v table r) ∧
      (capabilitiesFor v table = none → ∀ q ∈ table, versionLe q.threshold v ≠ true) := by
  induction table with
  | nil => exact ⟨nofun, nofun⟩
  | cons p rows ih =>
    obtain ⟨ihsome, ihnone⟩ := ih
    cases hrest : capabilitiesFor v rows with
    | none =>
      have habove := ihnone hrest
      by_cases hp : versionLe p.threshold v = true
      · simp only [capabilitiesFor, hrest, hp, if_true]
        exact ⟨fun r hr => Option.some.inj hr ▸ selects_only hp habove, nofun⟩
      · simp only [capabilitiesFor, hrest, if_neg hp]
        exact ⟨nofun, fun _ => List.forall_mem_cons.mpr ⟨hp, habove⟩⟩
    | some best =>
      have hbest := ihsome best hrest
      by_cases hnew : versionLe p.threshold v = true ∧ versionLe best.threshold p.threshold = true
      · simp only [capabilitiesFor, hrest, hnew.1, hnew.2, Bool.and_self, if_true]
        exact ⟨fun r hr => Option.some.inj hr ▸ hbest.replaced hnew.1 hnew.2, nofun⟩
      · have hkeep : ¬ (versionLe p.threshold v && versionLe best.threshold p.threshold) = true := by simpa using hnew
        simp only [capabilitiesFor, hrest, if_neg hkeep]
        exact ⟨fun r hr => Option.some.inj hr ▸ hbest.keeps fun hp => versionLe_of_not fun hle => hnew ⟨hp, hle⟩, nofun⟩

/-- Where no two thresholds are equal at most one row is selected. -/
theorem Selects.unique {r q : CapRow} (h : Selects v table r) (k : Selects v table q)
    (hd : table.Pairwise fun p q => p.threshold ≠ q.threshold) : r = q := by
  have heq : r.threshold = q.threshold := versionLe_antisymm (k.greatest r h.mem h.fits) (h.greatest q k.mem k.fits)
  have hnodup : (table.map CapRow.threshold).Nodup := List.pairwise_map.mpr hd
  exact List.inj_on_of_nodup_map hnodup h.mem k.mem heq

/-- `capabilitiesFor` finds exactly the row that is selected (R121, R137). -/
theorem capabilitiesFor_eq_some_iff {r : CapRow} (hd : table.Pairwise fun p q => p.threshold ≠ q.threshold) :
    capabilitiesFor v table = some r ↔ Selects v table r := by
  obtain ⟨hsome, hnone⟩ := capabilitiesFor_spec v table
  refine ⟨hsome r, fun h => ?_⟩
  cases hc : capabilitiesFor v table with
  | none => exact absurd h.fits (hnone hc r h.mem)
  | some q => rw [(hsome q hc).unique h hd]

end Selection

/-! ### The conditions -/

theorem repeatedThreshold_eq_false_iff (table : List CapRow) :
    repeatedThreshold table = false ↔ table.Pairwise fun p q => p.threshold ≠ q.threshold := by
  induction table with
  | nil => simp [repeatedThreshold]
  | cons r rows ih => simp [repeatedThreshold, ih, ne_comm (a := r.threshold)]

theorem cmdHeld_eq_false_iff {s : State} : s.cmdHeld = false ↔ s.cmdLock = none := by simp [State.cmdHeld]

theorem anyArmed_eq_false_iff {s : State} :
    s.anyArmed = false ↔ ∀ st ∈ s.streams, st.pstate = .awaitingConfiguration := by simp [State.anyArmed]

/-- What `CT.CONNECT` asks of the block and of the table (R121). -/
structure Connectable (s : State) (table : List CapRow) : Prop where
  disconnected : s.capValid = false
  free : s.cmdLock = none
  stopped : ∀ st ∈ s.streams, st.pstate = .awaitingConfiguration
  distinct : table.Pairwise fun p q => p.threshold ≠ q.threshold

theorem connectable_iff {s : State} {table : List CapRow} :
    (s.capValid || s.cmdHeld || s.anyArmed || repeatedThreshold table) = false ↔ Connectable s table := by
  simp only [Bool.or_eq_false_iff, cmdHeld_eq_false_iff, anyArmed_eq_false_iff, repeatedThreshold_eq_false_iff]
  exact ⟨fun ⟨⟨⟨h1, h2⟩, h3⟩, h4⟩ => ⟨h1, h2, h3, h4⟩, fun ⟨h1, h2, h3, h4⟩ => ⟨⟨⟨h1, h2⟩, h3⟩, h4⟩⟩

/-- The row that `CT.CONNECT` selects (R121). -/
theorem connectRow_eq_some_iff {s : State} {v : Version} {table : List CapRow} {r : CapRow} :
    connectRow s v table = some r ↔
      Connectable s table ∧ Selects v table r ∧ r.caps.hdrVariant = 0 ∧ 10 ≤ r.caps.maxPkt.toNat := by
  by_cases hc : Connectable s table
  · rw [← capabilitiesFor_eq_some_iff hc.distinct]
    simp only [connectRow, connectable_iff.mpr hc, hc, true_and, Bool.false_eq_true, if_false]
    cases capabilitiesFor v table with
    | none => simp
    | some q =>
      simp only [Option.ite_none_left_eq_some, Option.some.injEq, Bool.or_eq_true, decide_eq_true_eq, not_or, ne_eq, not_not,
        Nat.not_lt]
      exact ⟨fun ⟨hfits, hq⟩ => ⟨hq, hq ▸ hfits⟩, fun ⟨hq, hfits⟩ => ⟨hq ▸ hfits, hq⟩⟩
  · have htest := mt connectable_iff.mp hc
    simp only [connectRow, hc, false_and, iff_false]
    rw [if_pos (Bool.eq_true_of_not_eq_false htest)]
    exact nofun

/-- With a row selected `CT.CONNECT` takes it over and forgets the clock (R121). -/
theorem exec_ctConnect_selects {s : State} {v : Version} {table : List CapRow} {r : CapRow}
    (h : connectRow s v table = some r) : exec (.ctConnect .host v table) s = .next
      { s with cap := r.caps, capVersion := v, capValid := true, nextId := 0, ref := { s.ref with valid := false }
               streams := s.streams.map syForget, ret := .ok, io := s.io.puts [.result .host .ok] } := by
  rw [exec, execCtConnect, if_neg (by simp), ctConnect, h]
  rfl

/-- With none it is refused and changes nothing (R121). -/
theorem exec_ctConnect_refuses {s : State} {v : Version} {table : List CapRow} (h : connectRow s v table = none) :
    exec (.ctConnect .host v table) s = .next
      { s with ret := .refused, io := s.io.puts [.result .host .refused] } := by
  rw [exec, execCtConnect, if_neg (by simp), ctConnect, h]
  rfl

end Sys2Proof.Machine

namespace Sys2Proof.Settled

open Machine

/-- Settles O18: the conditions and the selection of R121 are what `connectRow` tests. -/
theorem ctConnectSelects : Obligations.CtConnectSelects := by
  refine ⟨versionLe_iff, ?_⟩
  intro s v table legal
  have hrow (r : CapRow) : connectRow s v table = some r ↔ legal r := by
    rw [connectRow_eq_some_iff]
    constructor
    · rintro ⟨⟨hcap, hfree, hstop, hdist⟩, ⟨hmem, hfits, hgreatest⟩, hvariant, hpkt⟩
      exact ⟨hcap, hfree, hstop, hdist, hmem, hfits, hgreatest, hvariant, hpkt⟩
    · rintro ⟨hcap, hfree, hstop, hdist, hmem, hfits, hgreatest, hvariant, hpkt⟩
      exact ⟨⟨hcap, hfree, hstop, hdist⟩, ⟨hmem, hfits, hgreatest⟩, hvariant, hpkt⟩
  refine ⟨fun r hr => exec_ctConnect_selects ((hrow r).mpr hr), fun hno => exec_ctConnect_refuses ?_⟩
  exact Option.eq_none_iff_forall_ne_some.mpr fun r hr => hno r ((hrow r).mp hr)

end Sys2Proof.Settled
end

section
/-! PROOFS. An attempt and the replies it meets (R127 to R131, R139): how it starts, what a stale and a matching reply make of it,
and where a reply goes that nothing waits for. -/

namespace Sys2Proof.Machine

/-! ### Replies an attempt meets -/

@[simp] theorem replyBytes_length (magic size op id status : Half) (data : List Byte) :
    (replyBytes magic size op id status data).length = 10 + data.length := by
  simp only [replyBytes, halfBytes, List.length_append, List.length_cons, List.length_nil]

theorem raiseSome_eq_puts (io : Io) (e : Option Event) : io.raiseSome e = io.puts (e.toList.map .event) := by
  cases e with
  | none => exact (puts_nil io).symm
  | some e => rfl

/-- A reply to another request is a mismatch of its id, and the deadline is tested (R127, R129). -/
theorem chunkArrived_stale (c : CtCtx) {size stale : Half} (op status : Half) (data : List Byte) (hs : 2 ≤ size.toNat)
    (hid : stale ≠ c.x.reqId) :
    chunkArrived c (replyBytes c.cap.magicD2H size op stale status data) =
      ctPoll (c.raise (.protocolMismatch .id)) .pollReply := by
  have hmatch : ctMatch c.x ⟨0, size, op, stale⟩ = (false, some .id) := if_pos hid
  simp only [chunkArrived, ctScan_replyBytes _ _ _ _ _ _ hs, CtCtx.raiseSome_x, hmatch]
  rfl

/-- The view of an exchange that has discarded a chunk as a reply to another request, and waits on (R127, R129). -/
def CtCtx.discarded (c : CtCtx) (now : Micros) (chunk : List Byte) : CtCtx :=
  { c with io := (c.io.reads now 1).puts [.rx c.timeout, .event (.protocolMismatch .id)]
           x := { c.x with rxBuf := chunk, xrCnt := 0, phase := .reply } }

/-- A stale reply before the deadline is discarded: the attempt waits on (R127). -/
theorem attemptAnswer_stale {c : CtCtx} {now : Micros} {size stale : Half} (op status : Half) (data : List Byte)
    (hp : c.x.phase = .reply) (hc : ClockSteady c.io now) (hd : now < c.x.deadline) (hs : 2 ≤ size.toNat)
    (hid : stale ≠ c.x.reqId) :
    attemptAnswer c (.data (replyBytes c.cap.magicD2H size op stale status data)) =
      (.wait, c.discarded now (replyBytes c.cap.magicD2H size op stale status data)) := by
  rw [attemptAnswer_reply _ hp]
  refine (chunkArrived_stale (c.taking (replyBytes c.cap.magicD2H size op stale status data)) op status data hs hid).trans ?_
  rw [ctPoll_before (now := now) _ (by exact hc) (by exact hd)]
  simp [CtCtx.discarded, CtCtx.taking, raise_eq_puts, CtPhase.receiving]

/-- The view of an exchange that has met its reply (R127 to R131). -/
def CtCtx.answered (c : CtCtx) (status : Half) (data : List Byte) : CtCtx :=
  let size := BitVec.ofNat 16 (2 + data.length)
  { c with io := c.io.puts (.rx c.timeout :: (statusResult status data).2.toList.map .event)
           x := { c.x with rxBuf := replyBytes c.cap.magicD2H size c.x.reqOp c.x.reqId status data
                           body := halfBytes status ++ data, bodyLen := size } }

/-- A matching reply ends the attempt with the result of its status (R99, R127, R131). -/
theorem attemptAnswer_matching {c : CtCtx} (status : Half) (data : List Byte) (hp : c.x.phase = .reply)
    (hl : 2 + data.length < 65536) (hb : 2 + data.length ≤ c.cfg.bodyMax) :
    attemptAnswer c
        (.data (replyBytes c.cap.magicD2H (BitVec.ofNat 16 (2 + data.length)) c.x.reqOp c.x.reqId status data)) =
      (.done (statusResult status data).1, c.answered status data) := by
  rw [attemptAnswer_reply _ hp]
  refine (chunkArrived_reply (c.taking _) status data hl hb).trans ?_
  simp [CtCtx.answered, CtCtx.taking, raiseSome_eq_puts]

/-! ### Replies at `CTRL_RX` -/

/-- A reply of any class is its bytes with that status (R97, R99). -/
theorem exec_replyClass (size op id status : Half) (data : List Byte) (s : State) :
    exec (replyClass size op id status data) s = replyAt size op id status data s := by
  unfold replyClass
  split
  case h_8 => rfl
  all_goals
    rename_i h
    rw [eq_ofNat_of_toNat_eq h]
    rfl

/-- A status that the table of R99 does not name has no name of its own. -/
theorem nackName_other {status : Half}
    (h : status.toNat ∉ [0x0000, 0x0003, 0x0005, 0x0007, 0x000D, 0x000E, 0x0010]) : nackName status = .other := by
  simp only [List.mem_cons, List.not_mem_nil, or_false, not_or] at h
  unfold nackName
  split <;> simp_all

/-- A matching reply that an exchange waits for ends it, but for the not-ready one (R123, R131, R284). -/
theorem replyAt_ends {s : State} {x : Exchange} {status : Half} {data : List Byte} (hx : s.exchange = some x)
    (hp : x.phase = .reply) (hq : s.io.recvQ = []) (hl : 10 + data.length ≤ s.cap.maxPkt.toNat)
    (hb : 2 + data.length ≤ s.cfg.bodyMax) (hn : status ≠ 0x000D) :
    replyAt (BitVec.ofNat 16 (2 + data.length)) x.reqOp x.reqId status data s = .next
      { s with
        exchange := none, cmdLock := none, ret := .exec (statusResult status data).1
        io := s.io.puts ([.rx (s.timeout x.reqOp)] ++ (statusResult status data).2.toList.map .event ++
          s.delays x.reqOp (statusResult status data).1 ++ [.result x.owner (.exec (statusResult status data).1)]) } := by
  have hr : x.phase.receives = true := by rw [hp]; rfl
  have hready : (statusResult status data).1 ≠ .err .deviceNotReady := by
    rw [(statusResult_ready data hn).1]
    split <;> simp
  let reply := replyBytes s.cap.magicD2H (BitVec.ofNat 16 (2 + data.length)) x.reqOp x.reqId status data
  have hans := attemptAnswer_matching (c := (s.returns .none).metCtx x (.data reply)) status data hp
    (by have := s.cap.maxPkt.isLt; omega) hb
  refine (supply_recv_ends (s := s.returns .none) hx hq hr (answerFits_data (by simpa [reply] using hl)) hans rfl hready).trans ?_
  simp [State.metCtx, State.queued, CtCtx.answered, Io.puts, hq, State.timeout, State.returns, State.delays]

end Sys2Proof.Machine

namespace Sys2Proof.Settled

open Machine

/-- Settles O31: each class is the reply of its status (`replyAt_ends`), and one that nothing waits for queues
(`receive_stays`). -/
theorem rspEndsExchange : Obligations.RspEndsExchange := by
  refine ⟨?ends, ?stays⟩
  case ends =>
    intro s x code data hx hp hq hl hb hcode size done rejected
    have ends {status : Half} (hn : status ≠ 0x000D) := replyAt_ends (status := status) hx hp hq hl hb hn
    refine ⟨ends (by decide), ends (by decide), ends (by decide), ends (by decide), ends (by decide), ends (by decide), ?_⟩
    have hzero : code ≠ 0 := by rintro rfl; exact hcode (by decide)
    have hready : code ≠ 0x000D := by rintro rfl; exact hcode (by decide)
    have hresult := statusResult_rejected data hzero hready
    rw [nackName_other hcode] at hresult
    have hends := ends hready
    rwa [hresult] at hends
  case stays =>
    intro s size op id status data hx
    rw [exec_replyClass]
    exact receive_stays (s := s.returns .none) _ hx

end Sys2Proof.Settled

namespace Sys2Proof.Machine

/-! ### One attempt -/

theorem exec_ctAttempt {s : State} {x : Exchange} {p : Progress ExecResult} {c : CtCtx} (hx : s.exchange = some x)
    (h : ctAttempt (s.ctCtx x) = (p, c)) (hb : p = .wait → c.blocked = false) :
    exec .ctAttempt s = .next { s with exchange := some c.x, io := c.io, ret := attemptRet p } := by
  rw [exec, execCtAttempt]
  exact onExchange_next hx (by simp [h]) (by cases p <;> simp [attemptRet, Progress.result, hb])

/-- The next answer of the clock, where it is not below the last one (R14). -/
theorem hostClock_queued {io : Io} {v : Micros} {vs : List Micros} (hq : io.clock.queue = v :: vs) (hl : io.clock.last ≤ v) :
    hostClock io = some (v, { io with clock :=
      { io.clock with queue := vs, last := v, reads := io.clock.reads + 1 } }) := by
  simp [hostClock, clockDraw, hq, BitVec.not_lt.mpr hl]

/-- The view of an attempt whose frame is out, its clock read answered by `now` with the ports left as `io` (R125, R127). -/
def CtCtx.sent (c : CtCtx) (now : Micros) (io : Io) : CtCtx :=
  { c with io := { io.puts [.tx c.x.reqFrame c.timeout] with sendQ := io.sendQ.tail }
           x := { c.x with deadline := attemptDeadline c.io.clock.reads now c.timeout, xrCnt := 0 } }

/-- An attempt whose send succeeds comes to its first deadline test (R127). -/
theorem ctAttempt_sends {c : CtCtx} {now : Micros} {io : Io} (hc : hostClock c.io = some (now, io))
    (hk : sendDraw c.io = some .ok) : ctAttempt c = received (replyNext (c.sent now io)) := by
  have hk' : sendDraw io = some .ok := by
    rw [hostClock_io hc]
    exact hk
  simp only [ctAttempt, hc]
  rw [ctSendr_ok _ (by exact hk')]
  rfl

/-- A poll whose clock answers at or past the deadline ends in the timeout (R127, R135). -/
theorem ctPoll_late {α : Type} {c : CtCtx} {later : Micros} {io : Io} (p : CtPhase) (hc : hostClock c.io = some (later, io))
    (hd : c.x.deadline ≤ later) :
    ctPoll (α := α) c p = (.fail .transportTimeout, { c with io := io.raise .transportTimeout }) := by
  simp [ctPoll, hc, hd, CtCtx.raise]

/-- An attempt that waits for something else than a receive takes no answer. -/
theorem received_polling {c : CtCtx} (hr : c.x.phase.receives = false) : received (.wait, c) = (.wait, c) := by
  rw [received]
  cases hq : c.io.recvQ with
  | nil => rw [attemptDrain, CtCtx.leave, ← hq]
  | cons a q => rw [attemptDrain, if_neg (by simp [hr]), CtCtx.leave, ← hq]

theorem attemptDrain_waits {c d : CtCtx} {a : RecvAns} (q : List RecvAns) (hr : c.x.phase.receives = true)
    (hf : answerFits c.cap a = true) (h : attemptAnswer c a = (.wait, d)) : attemptDrain (a :: q) c = attemptDrain q d := by
  rw [attemptDrain, if_pos (by simp [hr, hf]), h]

theorem attemptDrain_done {c d : CtCtx} {a : RecvAns} {r : ExecResult} (q : List RecvAns) (hr : c.x.phase.receives = true)
    (hf : answerFits c.cap a = true) (h : attemptAnswer c a = (.done r, d)) :
    attemptDrain (a :: q) c = (.done r, d.leave q) := by
  rw [attemptDrain, if_pos (by simp [hr, hf]), h]

/-- The result of a status and what it puts out, as cases (R99, R131). -/
theorem statusResult_cases (status : Half) (data : List Byte) :
    (statusResult status data).1 = (if status = 0 then .ok data else if status = 0x000D then .err .deviceNotReady
      else .err (.deviceRejected (nackName status) status)) ∧
    (statusResult status data).2.toList.map Output.event = (if status = 0 then [] else if status = 0x000D then
      [.event .deviceNotReady] else [.event (.deviceRejected (nackName status) status)]) := by
  unfold statusResult
  split
  · exact ⟨rfl, rfl⟩
  · split <;> exact ⟨rfl, rfl⟩

/-- An attempt that waits for its reply, with a stale one and then the right one at hand: it ends with the result of the right
one's status (R127, R129). -/
theorem attemptDrain_stale {c : CtCtx} {now : Micros} {stale status : Half} {data : List Byte} (q : List RecvAns)
    (hp : c.x.phase = .reply) (hc : ClockSteady c.io now) (hd : now < c.x.deadline) (hid : stale ≠ c.x.reqId)
    (hl : 10 + data.length ≤ c.cap.maxPkt.toNat) (hb : 2 + data.length ≤ c.cfg.bodyMax) :
    let size := BitVec.ofNat 16 (2 + data.length)
    let old := replyBytes c.cap.magicD2H size c.x.reqOp stale status data
    attemptDrain (.data old :: .data (replyBytes c.cap.magicD2H size c.x.reqOp c.x.reqId status data) :: q) c =
      (.done (statusResult status data).1, ((c.discarded now old).answered status data).leave q) := by
  intro size old
  have hlen : 2 + data.length < 65536 := by have := c.cap.maxPkt.isLt; omega
  have hsize : 2 ≤ size.toNat := by simp only [size, BitVec.toNat_ofNat]; omega
  have hr : c.x.phase.receives = true := by rw [hp]; rfl
  have fits (id : Half) : answerFits c.cap (.data (replyBytes c.cap.magicD2H size c.x.reqOp id status data)) = true :=
    answerFits_data (by simpa using hl)
  rw [attemptDrain_waits _ hr (fits stale) (attemptAnswer_stale _ _ _ hp hc hd hsize hid)]
  exact attemptDrain_done (c := c.discarded now old) q rfl (fits c.x.reqId)
    (attemptAnswer_matching (c := c.discarded now old) status data rfl hlen hb)

/-- An attempt with a stale reply and then the right one at hand, from its start to its end: one send, two receives, three
clock reads (R127). -/
theorem ctAttempt_stale {c : CtCtx} {now : Micros} {stale status : Half} {data : List Byte} {q : List RecvAns}
    (hk : sendDraw c.io = some .ok) (hsum : now.toNat + c.timeout.toNat < 18446744073709551616) (hc : ClockSteady c.io now)
    (ht : 0 < c.timeout.toNat) (hid : stale ≠ c.x.reqId) (hl : 10 + data.length ≤ c.cap.maxPkt.toNat)
    (hb : 2 + data.length ≤ c.cfg.bodyMax) :
    let size := BitVec.ofNat 16 (2 + data.length)
    let good := replyBytes c.cap.magicD2H size c.x.reqOp c.x.reqId status data
    c.io.recvQ = .data (replyBytes c.cap.magicD2H size c.x.reqOp stale status data) :: .data good :: q →
    ctAttempt c = (.done (statusResult status data).1, { c with
      x := { c.x with deadline := now + c.timeout.setWidth 64, xrCnt := 0, rxBuf := good, body := halfBytes status ++ data
                      bodyLen := size, phase := .reply }
      io := { (c.io.reads now 3).puts ([.tx c.x.reqFrame c.timeout, .rx c.timeout, .event (.protocolMismatch .id),
                .rx c.timeout] ++ (statusResult status data).2.toList.map .event) with
                recvQ := q, sendQ := c.io.sendQ.tail } }) := by
  intro size good hq
  have hdeadline := attemptDeadline_fits c.io.clock.reads hsum
  have hahead : now < (c.sent now (c.io.reads now 1)).x.deadline := by
    show now < attemptDeadline c.io.clock.reads now c.timeout
    rw [hdeadline]
    exact lt_deadline hsum ht
  rw [ctAttempt_sends (hostClock_steady hc) hk, replyNext, ctPoll_before (now := now) _ (clockSteady_reads hc 1) hahead]
  let w : CtCtx := { c.sent now (c.io.reads now 1) with
    io := (c.sent now (c.io.reads now 1)).io.reads now 1
    x := { (c.sent now (c.io.reads now 1)).x with xrCnt := 0, phase := .reply } }
  show attemptDrain c.io.recvQ w = _
  rw [hq]
  refine (attemptDrain_stale (c := w) (now := now) q rfl (clockSteady_reads hc 2) hahead hid hl hb).trans ?_
  rw [← hdeadline]
  simp [w, good, size, CtCtx.discarded, CtCtx.answered, CtCtx.sent, CtCtx.timeout, CtCtx.leave, Io.puts, Io.reads]

/-- An attempt whose clock has reached the deadline when its frame is out ends in the timeout (R127, R135). -/
theorem ctAttempt_late {c : CtCtx} {now later : Micros} (hk : sendDraw c.io = some .ok)
    (hsum : now.toNat + c.timeout.toNat < 18446744073709551616) (hlast : c.io.clock.last ≤ now) (hle : now ≤ later)
    (hlate : now.toNat + c.timeout.toNat ≤ later.toNat) (hq : c.io.clock.queue = [now, later]) :
    ctAttempt c = (.fail .transportTimeout, { c with
      x := { c.x with deadline := now + c.timeout.setWidth 64, xrCnt := 0 }
      io := { c.io.puts [.tx c.x.reqFrame c.timeout, .event .transportTimeout] with
                sendQ := c.io.sendQ.tail
                clock := { c.io.clock with queue := [], last := later, reads := c.io.clock.reads + 2 } } }) := by
  have hdeadline := attemptDeadline_fits c.io.clock.reads hsum
  have hreached : attemptDeadline c.io.clock.reads now c.timeout ≤ later := by
    rw [hdeadline]
    bv_omega
  rw [ctAttempt_sends (hostClock_queued hq hlast) hk, replyNext,
    ctPoll_late (later := later) _ (hostClock_queued rfl hle) hreached, received]
  simp [CtCtx.sent, Io.puts, Io.raise, Io.emit, hdeadline]

/-- An attempt with one clock answer waits at the deadline test, its frame out (R18, R127). -/
theorem ctAttempt_silent {c : CtCtx} {now : Micros} (hk : sendDraw c.io = some .ok) (hlast : c.io.clock.last ≤ now)
    (hq : c.io.clock.queue = [now]) (hrest : c.io.clock.rest = none) :
    ctAttempt c = (.wait, { c with
      x := { c.x with deadline := attemptDeadline c.io.clock.reads now c.timeout, xrCnt := 0, phase := .pollReply }
      io := { c.io.puts [.tx c.x.reqFrame c.timeout] with
                sendQ := c.io.sendQ.tail
                clock := { c.io.clock with queue := [], last := now, reads := c.io.clock.reads + 1 } } }) := by
  rw [ctAttempt_sends (hostClock_queued hq hlast) hk, replyNext, ctPoll_no_clock _ (hostClock_eq_none_iff.mpr (by exact hrest)),
    received_polling rfl]
  rfl

end Sys2Proof.Machine

namespace Sys2Proof.Settled

open Machine

/-- Settles O27: an attempt with a stale reply first (`ctAttempt_stale`), one past its deadline (`ctAttempt_late`), and one with
a free deadline that waits at its test (`ctAttempt_silent`). -/
theorem ctAttempt : Obligations.CtAttempt := by
  intro s x now hx hk t
  refine ⟨?stale, ?late, ?silent⟩
  case stale =>
    intro hsum stale status data q hc ht hid hl hb size good r event hq
    obtain ⟨hresult, hevent⟩ := statusResult_cases status data
    have h := ctAttempt_stale (c := s.ctCtx x) hk hsum hc ht hid hl hb hq
    rw [hresult, hevent] at h
    exact exec_ctAttempt hx h nofun
  case late =>
    intro hsum later hlast hle hlate hq
    exact exec_ctAttempt hx (ctAttempt_late (c := s.ctCtx x) hk hsum hlast hle hlate hq) nofun
  case silent =>
    intro _ hlast hq hrest
    exact ⟨attemptDeadline s.io.clock.reads now t,
      exec_ctAttempt hx (ctAttempt_silent (c := s.ctCtx x) hk hlast hq hrest) fun _ => blocked_of_not_receives rfl⟩

end Sys2Proof.Settled
end

section
/-! PROOFS. No part of a packet's start, of a time conversion or of a frame's end looks at `STREAM_LOCK` (R75): each comes to the
same, whoever holds the lock. -/

namespace Sys2Proof.Machine

/-- A view whose stream's lock is held by `l`. -/
def RdCtx.heldBy (v : RdCtx) (l : Option Agent) : RdCtx := { v with st := { v.st with lock := l } }

/-- What an operation comes to, with its stream's lock held by `l`. -/
def Run.heldBy {α : Type} (l : Option Agent) : Run α → Run α
  | .done a v => .done a (v.heldBy l)
  | .wait w v => .wait w (v.heldBy l)

section Blind

variable (l : Option Agent)

/-- One part after another does not look at the lock where neither does. -/
theorem bind_heldBy {α β : Type} {x y : Except Fault α} {g : α → α} {m : β → β} {f k : α → Except Fault β} (h : x = y.map g)
    (hf : ∀ a, f (g a) = (k a).map m) : x >>= f = (y >>= k).map m := by
  subst h
  cases y with
  | error e => rfl
  | ok a => exact hf a

theorem Run.bind_heldBy {α β : Type} {f : α → RdCtx → Except Fault (Run β)}
    (hf : ∀ a u, f a (u.heldBy l) = (f a u).map (Run.heldBy l)) (r : Run α) :
    (r.heldBy l).bind f = (r.bind f).map (Run.heldBy l) := by
  cases r with
  | done a u => exact hf a u
  | wait w u => rfl

/-- A test that does not look at the lock leaves two parts that do not. -/
theorem ite_mapped {α β : Type} {c : Prop} [Decidable c] (m : α → β) {a b : α} {x y : β} (hx : x = m a) (hy : y = m b) :
    (if c then x else y) = m (if c then a else b) := by
  split <;> assumption

/-! ### Conversions -/

theorem csReference_heldBy (op : TimeOp) (v : RdCtx) : csReference op (v.heldBy l) = (csReference op v).heldBy l := by
  refine ite_mapped (Run.heldBy l) rfl ?_
  dsimp only [RdCtx.heldBy]
  cases hostClock v.io <;> rfl

theorem csEstablish_heldBy (op : TimeOp) (v : RdCtx) : csEstablish op (v.heldBy l) = (csEstablish op v).heldBy l :=
  ite_mapped (Run.heldBy l) rfl (csReference_heldBy l op { v with clkLock := some (.rd v.sid) })

theorem csInitAt_heldBy (v : RdCtx) (tick : Tick) (now : Micros) :
    csInitAt (v.heldBy l) tick now = (csInitAt v tick now).map fun p => (p.1, p.2.heldBy l) := by
  unfold csInitAt
  dsimp only
  rw [map_bind]
  refine bind_congr fun total => ?_
  rw [map_bind]
  rfl

theorem csInitRead_heldBy (op : TimeOp) (v : RdCtx) :
    csInitRead op (v.heldBy l) = (csInitRead op v).map (Run.heldBy l) := by
  unfold csInitRead
  dsimp only [RdCtx.heldBy]
  cases hostClock v.io with
  | none => rfl
  | some p => exact bind_heldBy (csInitAt_heldBy l { v with io := p.2 } op.tick p.1) fun _ => rfl

theorem csInit_heldBy (op : TimeOp) (v : RdCtx) : csInit op (v.heldBy l) = (csInit op v).map (Run.heldBy l) :=
  csInitRead_heldBy l op { v with st := { v.st with syFirst := false } }

theorem csAdvance_heldBy (v : RdCtx) (tick : Tick) :
    csAdvance (v.heldBy l) tick = (csAdvance v tick).map fun p => (p.1, p.2.heldBy l) := by
  unfold csAdvance
  rw [map_bind]
  refine bind_congr fun total => ?_
  rw [map_bind]
  rfl

theorem csResync_heldBy (op : TimeOp) (v : RdCtx) : csResync op (v.heldBy l) = (csResync op v).map (Run.heldBy l) :=
  csInit_heldBy l op { v.raise (.clockDesync v.sid) with st := { v.st with syFirst := true } }

theorem csAccept_heldBy (us : Micros) (v : RdCtx) : csAccept us (v.heldBy l) = (csAccept us v).map (Run.heldBy l) := rfl

theorem csConvert_heldBy (op : TimeOp) (v : RdCtx) : csConvert op (v.heldBy l) = (csConvert op v).map (Run.heldBy l) := by
  have accepts := Run.bind_heldBy l (csAccept_heldBy l)
  refine ite_mapped (Except.map (Run.heldBy l)) (bind_heldBy (csInit_heldBy l op v) accepts) ?_
  refine bind_heldBy (csAdvance_heldBy l v op.tick) fun p => ?_
  exact ite_mapped (Except.map (Run.heldBy l)) (bind_heldBy (csResync_heldBy l op p.2) accepts) rfl

theorem csElapsed_heldBy (op : TimeOp) (v : RdCtx) : csElapsed op (v.heldBy l) = (csElapsed op v).map (Run.heldBy l) := by
  unfold csElapsed
  dsimp only [RdCtx.heldBy]
  cases hostClock v.io with
  | none => rfl
  | some p =>
    dsimp only
    rw [map_bind]
    rfl

theorem csEstablished_heldBy (op : TimeOp) (v : RdCtx) :
    csEstablished op (v.heldBy l) = (csEstablished op v).map (Run.heldBy l) := by
  cases op with
  | tohost tick => exact csConvert_heldBy l _ v
  | hostonly => exact csElapsed_heldBy l _ v
  | establish tick => rfl
  | init tick => exact csInit_heldBy l _ v

theorem establishing_heldBy (op : TimeOp) (v : RdCtx) :
    ((csEstablish op (v.heldBy l)).bind fun _ u => csEstablished op u) =
      ((csEstablish op v).bind fun _ u => csEstablished op u).map (Run.heldBy l) := by
  rw [csEstablish_heldBy]
  exact Run.bind_heldBy l (fun _ u => csEstablished_heldBy l op u) _

theorem csBegin_heldBy (op : TimeOp) (v : RdCtx) : csBegin op (v.heldBy l) = (csBegin op v).map (Run.heldBy l) := by
  cases op with
  | tohost tick =>
    exact ite_mapped (Except.map (Run.heldBy l)) (csConvert_heldBy l _ v)
      (ite_mapped (Except.map (Run.heldBy l)) rfl (establishing_heldBy l _ v))
  | hostonly => exact ite_mapped (Except.map (Run.heldBy l)) (csElapsed_heldBy l _ v) (establishing_heldBy l _ v)
  | establish tick => exact establishing_heldBy l _ v
  | init tick => exact csInit_heldBy l _ v

/-! ### Frames and packets -/

theorem appendOut_heldBy (v : RdCtx) (bs : List Byte) : appendOut (v.heldBy l) bs = (appendOut v bs).heldBy l :=
  ite_mapped (RdCtx.heldBy · l) rfl rfl

theorem prPad_heldBy (v : RdCtx) (k : Nat) : prPad (v.heldBy l) k = (prPad v k).heldBy l :=
  ite_mapped (RdCtx.heldBy · l) rfl (appendOut_heldBy l v _)

theorem prSof_heldBy (v : RdCtx) (h : Header) : prSof (v.heldBy l) h = (prSof v h).heldBy l :=
  ite_mapped (RdCtx.heldBy · l)
    (prPad_heldBy l { v with st := { frameReset v.st with trailPad := trailPadOf h.ts } } (leadPad h.ts).toNat) rfl

theorem prLosschk_heldBy (v : RdCtx) (h : Header) :
    prLosschk (v.heldBy l) h = ((prLosschk v h).1, (prLosschk v h).2.heldBy l) := by
  unfold prLosschk
  dsimp only [RdCtx.heldBy]
  split <;> rfl

theorem packetBegun_heldBy (v : RdCtx) (h : Header) : (v.heldBy l).packetBegun h = (v.packetBegun h).heldBy l := by
  have hloss : prLosschk ((v.heldBy l).emit (.diagPacket v.sid h.type h.seq h.size h.ts)) h = _ :=
    prLosschk_heldBy l (v.emit (.diagPacket v.sid h.type h.seq h.size h.ts)) h
  have hsof : isSof (v.heldBy l).st h = isSof v.st h := rfl
  unfold RdCtx.packetBegun
  dsimp only
  rw [show (v.heldBy l).sid = v.sid from rfl, hloss, prSof_heldBy, hsof]
  cases isSof v.st h <;> rfl

theorem prTime_heldBy (v : RdCtx) (h : Header) : prTime (v.heldBy l) h = (prTime v h).map (Run.heldBy l) :=
  bind_heldBy (csBegin_heldBy l _ v) (Run.bind_heldBy l fun _ _ => rfl)

theorem packetStart_heldBy (v : RdCtx) (h : Header) : packetStart (v.heldBy l) h = (packetStart v h).map (Run.heldBy l) := by
  rw [packetStart_eq, packetStart_eq, packetBegun_heldBy, prTime_heldBy]
  exact ite_mapped (Except.map (Run.heldBy l)) rfl rfl

theorem prPublish_heldBy (v : RdCtx) : prPublish (v.heldBy l) = (prPublish v).map (RdCtx.heldBy · l) := by
  unfold prPublish
  rw [map_bind]
  rfl

theorem frameEnd_heldBy (v : RdCtx) : (v.heldBy l).frameEnd = v.frameEnd.heldBy l := by
  unfold RdCtx.frameEnd
  rw [show prPad (v.heldBy l) (v.heldBy l).st.trailPad.toNat = _ from prPad_heldBy l v v.st.trailPad.toNat]
  generalize prPad v v.st.trailPad.toNat = u
  have hcorrupt : (eofChecks (u.heldBy l).cfg (u.heldBy l).st).corrupt = (eofChecks u.cfg u.st).corrupt := rfl
  dsimp only
  rw [hcorrupt]
  cases (eofChecks u.cfg u.st).corrupt <;> rfl

theorem prEof_heldBy (v : RdCtx) : prEof (v.heldBy l) = (prEof v).map (RdCtx.heldBy · l) := by
  rw [prEof_eq, prEof_eq, frameEnd_heldBy, prPublish_heldBy]
  cases prPublish v.frameEnd <;> rfl

theorem packetEnd_heldBy (v : RdCtx) (h : Header) : packetEnd (v.heldBy l) h = (packetEnd v h).map (RdCtx.heldBy · l) :=
  ite_mapped (Except.map (RdCtx.heldBy · l)) (bind_heldBy (prEof_heldBy l v) fun _ => rfl) rfl

theorem headerTail_heldBy (v : RdCtx) (h : Header) :
    headerTail (v.heldBy l) h = (headerTail v h).map (RdCtx.heldBy · l) :=
  ite_mapped (Except.map (RdCtx.heldBy · l)) (packetEnd_heldBy l v h) rfl

/-- The end of a header comes to the same, whoever holds the stream's lock (R75, R174). -/
theorem headerComplete_heldBy (v : RdCtx) : headerComplete (v.heldBy l) = (headerComplete v).map (Run.heldBy l) := by
  unfold headerComplete
  rw [map_bind]
  refine bind_congr fun h => bind_heldBy (packetStart_heldBy l v h) (Run.bind_heldBy l fun _ u => ?_)
  exact bind_heldBy (headerTail_heldBy l u h) fun _ => rfl

end Blind

end Sys2Proof.Machine
end

section
/-! PROOFS. Where the clock answers and free locks are granted no time conversion waits (R18, R72, R110), and so no packet's
start does. -/

namespace Sys2Proof.Machine

/-- A view in which nothing has to wait: every clock read has an answer, and `CLK_LOCK` is free and granted. -/
structure RdCtx.Prompt (v : RdCtx) : Prop where
  answers : v.io.clock.rest ≠ none
  grants : v.io.grantLocks = true
  free : v.clkLock = none

/-- An operation has come to its end, and what follows has nothing to wait for either. -/
def Run.Ends {α : Type} (r : Run α) : Prop := ∃ a u, r = .done a u ∧ u.Prompt

theorem yields_ends {α : Type} {a : α} {u : RdCtx} (h : u.Prompt) : Yields (.ok (Run.done a u)) Run.Ends :=
  yields_ok ⟨a, u, rfl, h⟩

/-- One part after another comes to its end where both do. -/
theorem Run.bind_ends {α β : Type} {r : Run α} {next : α → RdCtx → Except Fault (Run β)} (hr : r.Ends)
    (hn : ∀ a u, u.Prompt → Yields (next a u) Run.Ends) : Yields (r.bind next) Run.Ends := by
  obtain ⟨a, u, rfl, hu⟩ := hr
  exact hn a u hu

/-- A clock read that is answered leaves the next ones answered (R110). -/
theorem RdCtx.Prompt.read {v : RdCtx} (h : v.Prompt) :
    ∃ now io, hostClock v.io = some (now, io) ∧ RdCtx.Prompt { v with io := io } := by
  obtain ⟨now, io, hn⟩ := hostClock_answers h.answers
  have hio := hostClock_io hn
  exact ⟨now, io, hn, by rw [hio]; exact h.answers, by rw [hio]; exact h.grants, h.free⟩

/-! ### Conversions -/

theorem csEstablish_ends {v : RdCtx} (op : TimeOp) (h : v.Prompt) : (csEstablish op v).Ends := by
  cases hr : v.ref.valid with
  | true => exact ⟨(), v, csEstablish_valid op h.free h.grants hr, h⟩
  | false =>
    obtain ⟨now, io, hn, hp⟩ := h.read
    refine ⟨(), _, (csEstablish_free op h.free h.grants).trans (csReference_answers op hr hn), ?_⟩
    exact ⟨hp.answers, hp.grants, rfl⟩

theorem csInitAt_prompt {v : RdCtx} (tick : Tick) (now : Micros) (h : v.Prompt) :
    Yields (csInitAt v tick now) fun p => p.2.Prompt :=
  (yields_trivial _).bind fun _ _ => (yields_trivial _).bind fun _ _ => yields_ok ⟨h.answers, h.grants, h.free⟩

theorem csInit_ends {v : RdCtx} (op : TimeOp) (h : v.Prompt) : Yields (csInit op v) Run.Ends := by
  obtain ⟨now, io, hn, hp⟩ := h.read
  simp only [csInit, csInitRead, hn]
  exact (csInitAt_prompt op.tick now (by exact ⟨hp.answers, hp.grants, hp.free⟩)).bind fun _ hu => yields_ends hu

theorem csAdvance_prompt {v : RdCtx} (tick : Tick) (h : v.Prompt) : Yields (csAdvance v tick) fun p => p.2.Prompt :=
  (yields_trivial _).bind fun _ _ => (yields_trivial _).bind fun _ _ => yields_ok ⟨h.answers, h.grants, h.free⟩

theorem csAccept_ends (us : Micros) {v : RdCtx} (h : v.Prompt) : Yields (csAccept us v) Run.Ends :=
  yields_ends ⟨h.answers, h.grants, h.free⟩

theorem csConvert_ends {v : RdCtx} (op : TimeOp) (h : v.Prompt) : Yields (csConvert op v) Run.Ends := by
  have accepts (r : Run Micros) (hr : r.Ends) : Yields (r.bind csAccept) Run.Ends :=
    Run.bind_ends hr fun us _ hu => csAccept_ends us hu
  unfold csConvert
  split
  · exact (csInit_ends op h).bind accepts
  · refine (csAdvance_prompt op.tick h).bind fun p hp => ?_
    dsimp only
    split
    · exact (csInit_ends op (by exact ⟨hp.answers, hp.grants, hp.free⟩)).bind accepts
    · exact csAccept_ends p.1 hp

theorem csElapsed_ends {v : RdCtx} (op : TimeOp) (h : v.Prompt) : Yields (csElapsed op v) Run.Ends := by
  obtain ⟨now, io, hn, hp⟩ := h.read
  simp only [csElapsed, hn]
  exact (yields_trivial _).bind fun _ _ => yields_ends hp

theorem csEstablished_ends {v : RdCtx} (op : TimeOp) (h : v.Prompt) : Yields (csEstablished op v) Run.Ends := by
  cases op with
  | tohost tick => exact csConvert_ends _ h
  | hostonly => exact csElapsed_ends _ h
  | establish tick => exact yields_ends h
  | init tick => exact csInit_ends _ h

theorem establishing_ends {v : RdCtx} (op : TimeOp) (h : v.Prompt) :
    Yields ((csEstablish op v).bind fun _ u => csEstablished op u) Run.Ends :=
  Run.bind_ends (csEstablish_ends op h) fun _ _ hu => csEstablished_ends op hu

/-- No conversion waits (R18). -/
theorem csBegin_ends {v : RdCtx} (op : TimeOp) (h : v.Prompt) : Yields (csBegin op v) Run.Ends := by
  cases op with
  | tohost tick =>
    unfold csBegin
    dsimp only
    split
    · exact csConvert_ends _ h
    · split
      · exact yields_ends h
      · exact establishing_ends _ h
  | hostonly =>
    unfold csBegin
    dsimp only
    split
    · exact csElapsed_ends _ h
    · exact establishing_ends _ h
  | establish tick => exact establishing_ends _ h
  | init tick => exact csInit_ends _ h

/-! ### Packets -/

theorem appendOut_grantLocks (v : RdCtx) (bs : List Byte) : (appendOut v bs).io.grantLocks = v.io.grantLocks := by
  unfold appendOut
  dsimp only
  split <;> rfl

theorem prPad_grantLocks (v : RdCtx) (k : Nat) : (prPad v k).io.grantLocks = v.io.grantLocks := by
  unfold prPad
  split
  · rfl
  · exact appendOut_grantLocks v _

theorem prSof_grantLocks (v : RdCtx) (h : Header) : (prSof v h).io.grantLocks = v.io.grantLocks := by
  unfold prSof
  dsimp only
  split
  · exact prPad_grantLocks _ _
  · rfl

theorem prLosschk_grantLocks (v : RdCtx) (h : Header) : (prLosschk v h).2.io.grantLocks = v.io.grantLocks := by
  unfold prLosschk
  dsimp only
  split <;> rfl

/-- A packet whose start is under way leaves what its time needs as it was (R177). -/
theorem packetBegun_prompt {v : RdCtx} (h : Header) (hp : v.Prompt) : (v.packetBegun h).Prompt := by
  have hframes := packetBegun_frames v h
  refine ⟨by rw [hframes.clock]; exact hp.answers, ?_, hframes.clkLock.trans hp.free⟩
  have hgrants : (v.packetBegun h).io.grantLocks = v.io.grantLocks := by
    unfold RdCtx.packetBegun
    dsimp only
    split
    · exact (prSof_grantLocks _ h).trans (prLosschk_grantLocks _ h)
    · exact prLosschk_grantLocks _ h
  exact hgrants.trans hp.grants

theorem prTime_ends {v : RdCtx} (h : Header) (hp : v.Prompt) : Yields (prTime v h) Run.Ends :=
  (csBegin_ends _ hp).bind fun _ hr => Run.bind_ends hr fun _ _ hu => yields_ends ⟨hu.answers, hu.grants, hu.free⟩

theorem packetStart_ends {v : RdCtx} (h : Header) (hp : v.Prompt) : Yields (packetStart v h) Run.Ends := by
  rw [packetStart_eq]
  split
  · exact yields_ends (packetBegun_prompt h hp)
  · exact prTime_ends h (packetBegun_prompt h hp)

/-- No header waits for its packet's time (R174, R182). -/
theorem headerComplete_done {v : RdCtx} (hp : v.Prompt) : Yields (headerComplete v) fun r => ∃ u, r = .done () u := by
  refine (yields_trivial _).bind fun h _ => (packetStart_ends h hp).bind fun r hr => ?_
  obtain ⟨a, u, rfl, -⟩ := hr
  exact (yields_trivial _).bind fun w _ => yields_ok ⟨w, rfl⟩

end Sys2Proof.Machine
end

section
/-! PROOFS. A packet header that arrives whole (R91, R94, R170, R173, R174, R177): how far its chunk comes, that this is `PR.HDR`
after the magic, and each class written out. -/

namespace Sys2Proof.Machine

/-! ### A header in one chunk -/

/-- The first half of the magic is noted, unless it is taken for the second half of one begun before (R173). -/
theorem chunkLoop_magicHalf {v : RdCtx} (fuel : Nat) (rest : List Byte) (hp : v.st.pstate = .seekingMagic)
    (hm : v.st.magicHalf = false ∨ magicLo v.cap ≠ magicHi v.cap) :
    chunkLoop (fuel + 1) v (magicLo v.cap :: rest) =
      chunkLoop fuel { v with st := { v.st with magicHalf := true } } rest := by
  have hhalf : (v.st.magicHalf && magicLo v.cap == magicHi v.cap) = false := by
    rcases hm with h | h
    · simp [h]
    · simp [h]
  have hround : chunkRound v (magicLo v.cap :: rest) =
      .ok (0 + 1, .done () { v with st := { v.st with magicHalf := true } }) := by
    simp [chunkRound, hp, prSeek, hhalf, throughout]
  exact chunkLoop_round fuel hround

/-- The magic brings a parser that seeks to the header, whether or not it has the first half already (R173). -/
theorem chunkLoop_seeks {v : RdCtx} (fuel : Nat) (rest : List Byte) (hp : v.st.pstate = .seekingMagic)
    (hm : v.st.magicHalf = false ∨ magicLo v.cap ≠ magicHi v.cap) (hh : v.st.hdr = []) :
    chunkLoop (fuel + 2) v (magicLo v.cap :: magicHi v.cap :: rest) =
      chunkLoop fuel { v with st := v.st.atMagic v.cap } rest := by
  let fresh : RdCtx := { v with st := { v.st with magicHalf := false } }
  calc chunkLoop (fuel + 2) v (magicLo v.cap :: magicHi v.cap :: rest)
      = chunkLoop (fuel + 2) fresh (magicLo v.cap :: magicHi v.cap :: rest) :=
        (chunkLoop_magicHalf (fuel + 1) _ hp hm).trans (chunkLoop_magicHalf (v := fresh) (fuel + 1) _ hp (.inl rfl)).symm
    _ = chunkLoop fuel { v with st := v.st.atMagic v.cap } rest := chunkLoop_magic (v := fresh) fuel rest hp rfl hh

/-- A round that faults ends its chunk (R170). -/
theorem chunkLoop_fault {v : RdCtx} {b : Byte} {bs : List Byte} {e : Fault} (fuel : Nat)
    (h : chunkRound v (b :: bs) = .error e) : chunkLoop (fuel + 1) v (b :: bs) = .error e := by
  rw [chunkLoop, h]
  rfl

section Whole

variable (type seq size : Half) (ts : Tick)

/-- The view of a parser that has just got the last byte of a header (R174). -/
def RdCtx.whole (v : RdCtx) : RdCtx :=
  { v with st := (v.st.atMagic v.cap).headed (headerBytes v.cap.magicD2H type seq size ts) }

theorem readHeader_whole_view (v : RdCtx) :
    readHeader (v.whole type seq size ts).st.hdr = .ok ⟨v.cap.magicD2H, type, seq, size, ts⟩ := readHeader_headerBytes ..

theorem unlock_heldBy (l : Option Agent) {u : RdCtx} (h : u.st.lock = none) : (u.heldBy l).unlock = u := by
  show { u with st := { u.st with lock := none } } = u
  rw [← h]

/-- A header that arrives whole and waits for nothing is its end, and the stream's lock is given back (R75, R170, R174). -/
theorem prChunk_header {v : RdCtx} (hl : v.st.lock = none) (hj : v.st.job = none) (hp : v.st.pstate = .seekingMagic)
    (hm : v.st.magicHalf = false ∨ magicLo v.cap ≠ magicHi v.cap) (hh : v.st.hdr = [])
    (hd : Yields (headerComplete (v.whole type seq size ts)) fun r => ∃ u, r = .done () u) :
    prChunk v (headerBytes v.cap.magicD2H type seq size ts) =
      headerComplete (v.whole type seq size ts) >>= fun r => .ok (.none, r.ctx) := by
  let l : Option Agent := some (.rd v.sid)
  have hround : chunkRound { v.heldBy l with st := (v.heldBy l).st.atMagic v.cap } (headerRest type seq size ts) =
      headerComplete ((v.whole type seq size ts).heldBy l) >>= fun r => .ok (9 + 1, r) := by
    have h := chunkRound_header (v := v.heldBy l) type seq size ts []
    rwa [List.append_nil] at h
  have hloop : chunkLoop 12 (v.heldBy l) (headerBytes v.cap.magicD2H type seq size ts) =
      chunkLoop 10 { v.heldBy l with st := (v.heldBy l).st.atMagic v.cap } (headerRest type seq size ts) :=
    chunkLoop_seeks (v := v.heldBy l) 10 _ hp hm hh
  show (chunkLoop 12 (v.heldBy l) (headerBytes v.cap.magicD2H type seq size ts) >>= fun u => .ok (chunkEnd u)) = _
  rw [headerComplete_heldBy] at hround
  cases hc : headerComplete (v.whole type seq size ts) with
  | error e =>
    rw [hc] at hround
    rw [hloop, show chunkLoop 10 _ (headerRest type seq size ts) = .error e from chunkLoop_fault 9 hround]
    rfl
  | ok r =>
    obtain ⟨u, rfl⟩ := hd r hc
    have hon : Onward (v.whole type seq size ts) u := headerComplete_onward _ _ hc
    rw [hc] at hround
    rw [hloop, show chunkLoop 10 _ (headerRest type seq size ts) = .ok (u.heldBy l) from chunkLoop_round 9 hround]
    have hidle : (u.heldBy l).st.inJob = false := by
      have hnone : u.st.job = none := hon.job.trans hj
      simp [RdCtx.heldBy, Stream.inJob, hnone]
    have hfreed : (u.heldBy l).unlock = u := unlock_heldBy l (hon.lock.trans hl)
    show Except.ok (chunkEnd (u.heldBy l)) = _
    rw [chunkEnd, hidle, hfreed]
    rfl

end Whole

section Arrival

variable {s : State} {sid : Nat} {st : Stream}

/-- A chunk for an idle stream is parsed at once (R75, R170). -/
theorem chunkAt_begins (bytes : List Byte) (hs : s.streams[sid]? = some st) (hl : st.lock = none) (hj : st.job = none) :
    chunkAt sid bytes s = s.finish (prChunk (s.ctx sid st) bytes) := by
  rw [chunkAt, onReader_free hs (by simp [Stream.locked, Stream.inJob, hl, hj])]
  exact onStream_eq_finish hs _

/-- A packet's class is its header's bytes (R91, R94). -/
theorem headerAt_eq (type : Stream → Half) (seq size : Half) (ts : Tick) (hs : s.streams[sid]? = some st) :
    headerAt sid type seq size ts s = chunkAt sid (headerBytes s.cap.magicD2H (type st) seq size ts) s := by
  rw [headerAt, hs]

/-- `PR.HDR` on the rest of a header whose magic was found (R174). -/
theorem exec_prHdr_rest (type seq size : Half) (ts : Tick) (hs : s.streams[sid]? = some st) (hj : st.job = none)
    (hd : Yields (headerComplete ((s.ctx sid st).whole type seq size ts)) fun r => ∃ u, r = .done () u) :
    exec (.prHdr sid (headerBytes s.cap.magicD2H type seq size ts) 2) (s.put sid (st.atMagic s.cap) s.io .none) =
      s.finish (headerComplete ((s.ctx sid st).whole type seq size ts) >>= fun r => .ok (.pos 12, r.ctx)) := by
  let v : RdCtx := { s.ctx sid st with st := st.atMagic s.cap }
  have hv : (s.leaves .none v).streams[sid]? = some v.st := leaves_stream hs rfl _
  have hhdr : prHdr v (headerRest type seq size ts) =
      headerComplete ((s.ctx sid st).whole type seq size ts) >>= fun r => .ok (10, r) := by
    have h := chunkRound_header (v := s.ctx sid st) type seq size ts []
    rwa [List.append_nil] at h
  have hrun : (prHdr v (headerRest type seq size ts) >>= fun p =>
        .ok (parserSettle (.header (2 + p.1)) (.pos (2 + p.1)) p.2)) =
      headerComplete ((s.ctx sid st).whole type seq size ts) >>= fun r => .ok (.pos 12, r.ctx) := by
    rw [hhdr]
    cases hc : headerComplete ((s.ctx sid st).whole type seq size ts) with
    | error e => rfl
    | ok r =>
      obtain ⟨u, rfl⟩ := hd r hc
      rfl
  have hsid : Yields (headerComplete ((s.ctx sid st).whole type seq size ts) >>= fun r => .ok (Ret.pos 12, r.ctx))
      fun p => p.2.sid = v.sid := (headerComplete_onward _).bind fun r hr => yields_ok hr.sid
  show exec _ (s.leaves .none v) = _
  rw [exec, execPrHdr, if_neg (by simp), onReader_free hv (by simpa [v, Stream.inJob, Stream.atMagic] using hj),
    onStream_eq_finish hv, ← finish_leaves (v := v) .none hsid, ← hrun]
  rfl

/-- A header that arrives whole is what `PR.HDR` makes of it once its magic is found (R173, R174). -/
theorem chunkAt_header (type seq size : Half) (ts : Tick) (hs : s.streams[sid]? = some st) (hl : st.lock = none)
    (hj : st.job = none) (hp : st.pstate = .seekingMagic)
    (hm : st.magicHalf = false ∨ magicLo s.cap ≠ magicHi s.cap) (hh : st.hdr = [])
    (hd : Yields (headerComplete ((s.ctx sid st).whole type seq size ts)) fun r => ∃ u, r = .done () u) :
    chunkAt sid (headerBytes s.cap.magicD2H type seq size ts) s =
      s.finish (headerComplete ((s.ctx sid st).whole type seq size ts) >>= fun r => .ok (.none, r.ctx)) := by
  rw [chunkAt_begins _ hs hl hj]
  exact congrArg s.finish (prChunk_header (v := s.ctx sid st) type seq size ts hl hj hp hm hh hd)

theorem andThen_finish_returns (x : Except Fault (Run Unit)) (r r' : Ret) :
    andThen (s.finish (x >>= fun q => .ok (r, q.ctx))) (fun t => .next (t.returns r')) =
      s.finish (x >>= fun q => .ok (r', q.ctx)) := by
  cases x <;> rfl

end Arrival

end Sys2Proof.Machine
end

section
/-! PROOFS. Each class of packet whose header arrives whole (R94, R177 to R182): what its start makes of the parser's view, with
and without padding, and its time by the host clock. -/

namespace Sys2Proof.Machine

/-! ### The start of a packet -/

/-- What the loss check puts out (R178). -/
def lossEvents (sid : Nat) (next seq : Half) : List Output :=
  if lossOf next seq then [.event (.packetLoss sid next seq)] else []

/-- The view of a packet that is reported and checked for loss (R177, R178). -/
def RdCtx.checked (v : RdCtx) (h : Header) : RdCtx :=
  { v with st := { v.st with lastSeq := h.seq }
           io := v.io.puts (.diagPacket v.sid h.type h.seq h.size h.ts ::
             lossEvents v.sid (nextSeq v.cfg v.st.lastSeq) h.seq) }

theorem prLosschk_checked (v : RdCtx) (h : Header) :
    prLosschk (v.emit (.diagPacket v.sid h.type h.seq h.size h.ts)) h =
      (lossOf (nextSeq v.cfg v.st.lastSeq) h.seq, v.checked h) := by
  cases hl : lossOf (nextSeq v.cfg v.st.lastSeq) h.seq <;>
    simp [prLosschk, RdCtx.checked, lossEvents, hl, RdCtx.emit, RdCtx.raise, emit_eq_puts, raise_eq_puts]

/-- A packet that starts no frame leaves the frame in progress as it is, but for its loss flags (R177, R179). -/
theorem packetBegun_started {v : RdCtx} {h : Header} (hs : h.type ≠ v.st.conf.typeSof) :
    v.packetBegun h = v.started h := by
  have hsof : isSof v.st h = false := by simpa [isSof] using hs
  simp only [RdCtx.packetBegun, prLosschk_checked, hsof]
  rfl

/-- A packet that starts a frame notes its loss as the frame's first (R177, R179). -/
theorem packetBegun_sof {v : RdCtx} {h : Header} (hs : h.type = v.st.conf.typeSof) :
    v.packetBegun h = { prSof (v.checked h) h with
      st := lossFlags (prSof (v.checked h) h).st true (lossOf (nextSeq v.cfg v.st.lastSeq) h.seq) } := by
  have hsof : isSof v.st h = true := by simpa [isSof] using hs
  simp only [RdCtx.packetBegun, prLosschk_checked, hsof]
  rfl

/-- Without padding in the timestamp a frame starts empty (R180). -/
theorem prSof_unpadded {v : RdCtx} (h : Header) (hp : v.cap.sofTsPad = false) :
    prSof v h = { v with st := v.st.frameless } := by
  simp [prSof, hp, prFrameReset, frameReset, Stream.frameless]

theorem fillerBytes_length (cfg : Cfg) (n k : Nat) : (fillerBytes cfg n k).length = k * n := by
  rw [fillerBytes, flatten_replicate_length, fillerSample, storedSample_length, Nat.mul_comm]

/-- Padding that fits is all there is in an empty buffer (R61, R185). -/
theorem prPad_empty {v : RdCtx} {k : Nat} (hout : v.st.out = []) (hlen : v.st.outLen = 0) (hdrop : v.st.drop = false)
    (hfit : k * sampleBytes v.cfg v.st.conf ≤ v.st.conf.outCap.toNat) :
    prPad v k = { v with st := { v.st with
      out := tableCells 0 (fillerBytes v.cfg (sampleBytes v.cfg v.st.conf) k)
      outLen := BitVec.ofNat 32 (k * sampleBytes v.cfg v.st.conf) } } := by
  have hfill := fillerBytes_length v.cfg (sampleBytes v.cfg v.st.conf) k
  have hzero : v.st.outLen.toNat = 0 := by rw [hlen]; rfl
  by_cases hk : k = 0
  · subst hk
    have hnone : prPad v 0 = v := by simp [prPad]
    rw [hnone, Nat.zero_mul]
    show v = { v with st := { v.st with out := [], outLen := 0 } }
    rw [← hout, ← hlen]
  · have happend : prPad v k = appendOut v (fillerBytes v.cfg (sampleBytes v.cfg v.st.conf) k) := by
      simp [prPad, fillerBytes, hdrop, hk]
    rw [happend, appendOut_fits (by rw [hzero, hfill]; simpa using hfit), hzero, hout, writeCells_nil_zero, hfill,
      Nat.zero_add]

/-- A frame that starts with padding that fits (R180, R185). -/
theorem prSof_padded {v : RdCtx} (h : Header) (hp : v.cap.sofTsPad = true)
    (hfit : (leadPad h.ts).toNat * sampleBytes v.cfg v.st.conf ≤ v.st.conf.outCap.toNat) :
    prSof v h = { v with st := { v.st.frameless with
      out := tableCells 0 (fillerBytes v.cfg (sampleBytes v.cfg v.st.conf) (leadPad h.ts).toNat)
      outLen := BitVec.ofNat 32 ((leadPad h.ts).toNat * sampleBytes v.cfg v.st.conf)
      trailPad := trailPadOf h.ts } } := by
  let u : RdCtx := { v with st := { v.st.frameless with trailPad := trailPadOf h.ts } }
  calc prSof v h = prPad u (leadPad h.ts).toNat := by simp [prSof, hp, prFrameReset, frameReset, u, Stream.frameless]
    _ = _ := prPad_empty (v := u) rfl rfl rfl hfit

/-! ### Its time -/

/-- Output does not come into what the host clock answers (R13). -/
theorem hostClock_puts_some {io io' : Io} {now : Micros} (os : List Output) (hn : hostClock io = some (now, io')) :
    hostClock (io.puts os) = some (now, io'.puts os) := by
  rw [hostClock_io hn]
  unfold hostClock at hn ⊢
  show (match clockDraw io.clock with | none => none | some draw => _) = _
  cases hd : clockDraw io.clock with
  | none => simp [hd] at hn
  | some draw =>
    simp only [hd, Option.some.injEq, Prod.mk.injEq] at hn
    obtain ⟨rfl, -⟩ := hn
    rfl

/-- A packet's time by the host clock alone is what has elapsed since the reference (R182, R219). -/
theorem prTime_elapsed {v : RdCtx} {now : Micros} {io : Io} (h : Header) (hm : v.st.conf.tsMode = .hostOnly)
    (hr : v.ref.valid = true) (hle : v.ref.host ≤ v.io.clock.last) (hn : hostClock v.io = some (now, io)) :
    prTime v h = .ok (.done () (prTimed { v with io := io } h (now - v.ref.host))) := by
  have hafter : v.ref.host.toNat ≤ now.toNat := BitVec.le_trans hle (hostClock_ge_last hn)
  have hus : to64 ((now.toNat : Int) - v.ref.host.toNat) = .ok (now - v.ref.host) := by
    rw [to64_ok (by omega) (by omega)]
    exact congrArg _ (by bv_omega)
  have hbegin : csBegin .hostonly v = .ok (.done (now - v.ref.host) { v with io := io }) := by
    rw [csBegin_referenced rfl hr]
    simp only [csEstablished, csElapsed, hn, hus]
    rfl
  rw [prTime, timeOp, hm, hbegin]
  rfl

/-! ### The end of its header -/

/-- The record of a parser that goes on to a packet's payload (R174). -/
def Stream.toData (size : Half) (st : Stream) : Stream :=
  { st with dataLeft := size, dataOff := 0, pstate := .readingData }

/-- A header with a payload brings the parser to it (R174). -/
theorem headerComplete_toData {v u : RdCtx} {h : Header} (hh : readHeader v.st.hdr = .ok h) (hz : h.size ≠ 0)
    (hp : packetStart v h = .ok (.done () u)) :
    headerComplete v = .ok (.done () { u with st := u.st.toData h.size }) := by
  have htail : headerTail u h = .ok { u with st := u.st.toData h.size } := if_neg hz
  unfold headerComplete
  rw [hh]
  show packetStart v h >>= _ = _
  rw [hp]
  show headerTail u h >>= _ = _
  rw [htail]
  rfl

section Arrival

variable {s : State} {sid : Nat} {st : Stream} {type seq size : Half} {ts : Tick}

/-- A parser that seeks in an idle stream and will find the next magic where it stands (R75, R173). -/
structure Seeks (s : State) (sid : Nat) (st : Stream) : Prop where
  stream : s.streams[sid]? = some st
  unlocked : st.lock = none
  idle : st.job = none
  seeking : st.pstate = .seekingMagic
  half : st.magicHalf = false ∨ magicLo s.cap ≠ magicHi s.cap
  fresh : st.hdr = []

/-- A packet that starts at once leaves the parser at its payload (R174, R177). -/
theorem chunkAt_toData {u : RdCtx} (hk : Seeks s sid st) (hz : size ≠ 0)
    (hp : packetStart ((s.ctx sid st).whole type seq size ts) ⟨s.cap.magicD2H, type, seq, size, ts⟩ = .ok (.done () u)) :
    chunkAt sid (headerBytes s.cap.magicD2H type seq size ts) s =
      .next (s.leaves .none { u with st := u.st.toData size }) := by
  have hc : headerComplete ((s.ctx sid st).whole type seq size ts) = .ok (.done () { u with st := u.st.toData size }) :=
    headerComplete_toData (readHeader_whole_view type seq size ts _) hz hp
  rw [chunkAt_header type seq size ts hk.stream hk.unlocked hk.idle hk.seeking hk.half hk.fresh
    (by rw [hc]; exact yields_ok ⟨_, rfl⟩), hc]
  rfl

/-- A stream timed by the host clock alone, with a reference and an answer `now` of that clock (R182, R219). -/
structure HostTimed (s : State) (st : Stream) (now : Micros) (io : Io) : Prop where
  mode : st.conf.tsMode = .hostOnly
  valid : s.ref.valid = true
  past : s.ref.host ≤ s.io.clock.last
  answer : hostClock s.io = some (now, io)

/-- A packet timed by the host clock alone (R177, R182). -/
theorem chunkAt_timed {u : RdCtx} {os : List Output} {now : Micros} {io : Io} (hk : Seeks s sid st) (hz : size ≠ 0)
    (ht : HostTimed s st now io)
    (hu : ((s.ctx sid st).whole type seq size ts).packetBegun ⟨s.cap.magicD2H, type, seq, size, ts⟩ = u)
    (hio : u.io = s.io.puts os) (hsof : type = st.conf.typeSof → s.cap.sofTsPad = false) :
    chunkAt sid (headerBytes s.cap.magicD2H type seq size ts) s =
      .next (s.put sid ({ u.st with pktTime := now - s.ref.host }.toData size)
        (io.puts (os ++ [.diagTime sid ts (now - s.ref.host)])) .none) := by
  have hf : Frames ((s.ctx sid st).whole type seq size ts) u := hu ▸ packetBegun_frames _ _
  have hstart : packetStart ((s.ctx sid st).whole type seq size ts) ⟨s.cap.magicD2H, type, seq, size, ts⟩ =
      prTime u ⟨s.cap.magicD2H, type, seq, size, ts⟩ := by
    rw [packetStart_eq, hu, hf.cap]
    refine if_neg ?_
    show ¬(decide (type = st.conf.typeSof) && s.cap.sofTsPad) = true
    simpa using hsof
  have htime := prTime_elapsed (v := u) (io := io.puts os) ⟨s.cap.magicD2H, type, seq, size, ts⟩
    (by rw [hf.record]; exact ht.mode) (by rw [hf.ref]; exact ht.valid) (by rw [hf.ref, hio]; exact ht.past)
    (by rw [hio]; exact hostClock_puts_some os ht.answer)
  rw [chunkAt_toData hk hz (hstart.trans htime), hf.ref]
  obtain ⟨usid, ucfg, ucap, uref, uclk, ust, uio⟩ := u
  obtain rfl : usid = sid := hf.sid
  obtain rfl : uref = s.ref := hf.ref
  obtain rfl : uclk = s.clkLock := hf.clkLock
  rw [← puts_puts]
  rfl

end Arrival

end Sys2Proof.Machine
end

section
/-! PROOFS. The packet classes, written out (R94, R177). -/

namespace Sys2Proof.Machine

section Classes

variable {s : State} {sid : Nat} {st : Stream} {type seq size : Half} {ts : Tick}

/-- The record of a parser that has read a packet's header: the id is kept, a loss marked (R174, R178, R179). -/
def Stream.packetRead (magic type seq size : Half) (ts : Tick) (loss : Bool) (st : Stream) : Stream :=
  { st with hdr := tableCells 0 (headerBytes magic type seq size ts), hdrCnt := 12, dataLeft := size, dataOff := 0
            magicHalf := false, pstate := .readingData, lastSeq := seq, lossMark := st.lossMark || loss, lossLast := loss }

/-- The ports after a packet that is timed: its report, the loss check's event and its time, over a read of the clock. -/
theorem puts_timed {io io' : Io} {now : Micros} (hn : hostClock io = some (now, io')) (a b : Output) (os : List Output) :
    io'.puts (a :: os ++ [b]) = { io' with trace := io.trace ++ [a] ++ os ++ [b] } := by
  rw [hostClock_io hn]
  simp [Io.puts]

/-- A start-of-frame whose padding fits (R177, R180). -/
theorem exec_pktSof_padded (hk : Seeks s sid st) (hz : size ≠ 0) (hp : s.cap.sofTsPad = true)
    (hfit : (leadPad ts).toNat * sampleBytes s.cfg st.conf ≤ st.conf.outCap.toNat) :
    let loss := lossOf (nextSeq s.cfg st.lastSeq) seq
    exec (.pktSof sid seq size ts) s = .next (s.put sid
      { st.frameless.packetRead s.cap.magicD2H st.conf.typeSof seq size ts loss with
        out := tableCells 0 (fillerBytes s.cfg (sampleBytes s.cfg st.conf) (leadPad ts).toNat)
        outLen := BitVec.ofNat 32 ((leadPad ts).toNat * sampleBytes s.cfg st.conf)
        trailPad := trailPadOf ts, lossFirst := loss }
      (s.io.puts ([.diagPacket sid st.conf.typeSof seq size ts] ++
        lossEvents sid (nextSeq s.cfg st.lastSeq) seq)) .none) := by
  let v : RdCtx := (s.ctx sid st).whole st.conf.typeSof seq size ts
  let h : Header := ⟨s.cap.magicD2H, st.conf.typeSof, seq, size, ts⟩
  have hbegun := (packetBegun_sof (v := v) (h := h) rfl).trans
    (by rw [prSof_padded (v := v.checked h) h hp hfit])
  have hstart : packetStart v h = .ok (.done () (v.packetBegun h)) := by
    rw [packetStart_eq, (packetBegun_frames v h).cap]
    refine if_pos ?_
    show (decide (st.conf.typeSof = st.conf.typeSof) && s.cap.sofTsPad) = true
    simp [hp]
  show headerAt sid (fun st => st.conf.typeSof) seq size ts s = _
  rw [headerAt_eq _ seq size ts hk.stream, chunkAt_toData hk hz hstart, hbegun]
  rfl

/-- A start-of-frame without padding (R177, R180, R182). -/
theorem exec_pktSof_timed {now : Micros} {io : Io} (hk : Seeks s sid st) (hz : size ≠ 0) (hp : s.cap.sofTsPad = false)
    (ht : HostTimed s st now io) :
    let loss := lossOf (nextSeq s.cfg st.lastSeq) seq
    exec (.pktSof sid seq size ts) s = .next (s.put sid
      { st.frameless.packetRead s.cap.magicD2H st.conf.typeSof seq size ts loss with
        lossFirst := loss, pktTime := now - s.ref.host }
      { io with trace := s.io.trace ++ [.diagPacket sid st.conf.typeSof seq size ts] ++
          lossEvents sid (nextSeq s.cfg st.lastSeq) seq ++ [.diagTime sid ts (now - s.ref.host)] } .none) := by
  let v : RdCtx := (s.ctx sid st).whole st.conf.typeSof seq size ts
  let h : Header := ⟨s.cap.magicD2H, st.conf.typeSof, seq, size, ts⟩
  have hbegun := (packetBegun_sof (v := v) (h := h) rfl).trans (by rw [prSof_unpadded (v := v.checked h) h hp])
  show headerAt sid (fun st => st.conf.typeSof) seq size ts s = _
  rw [headerAt_eq _ seq size ts hk.stream, chunkAt_timed hk hz ht hbegun rfl fun _ => hp, puts_timed ht.answer]
  rfl

/-- A packet that starts no frame (R177, R182). -/
theorem chunkAt_started {now : Micros} {io : Io} (hk : Seeks s sid st) (hz : size ≠ 0) (hs : type ≠ st.conf.typeSof)
    (ht : HostTimed s st now io) :
    chunkAt sid (headerBytes s.cap.magicD2H type seq size ts) s = .next (s.put sid
      { st.packetRead s.cap.magicD2H type seq size ts (lossOf (nextSeq s.cfg st.lastSeq) seq) with
        pktTime := now - s.ref.host }
      { io with trace := s.io.trace ++ [.diagPacket sid type seq size ts] ++
          lossEvents sid (nextSeq s.cfg st.lastSeq) seq ++ [.diagTime sid ts (now - s.ref.host)] } .none) := by
  rw [chunkAt_timed hk hz ht (packetBegun_started hs) rfl fun h => absurd h hs, puts_timed ht.answer]
  rfl

/-- Where nothing has to wait, a header that arrives whole is what `PR.HDR` makes of it (R173, R174). -/
theorem chunkAt_as_prHdr (hk : Seeks s sid st) (hu : Unhindered s) :
    chunkAt sid (headerBytes s.cap.magicD2H type seq size ts) s =
      andThen (exec (.prHdr sid (headerBytes s.cap.magicD2H type seq size ts) 2)
          (s.put sid (st.atMagic s.cap) s.io .none))
        fun t => .next (t.returns .none) := by
  obtain ⟨hrest, hgrants, hfree⟩ := hu
  have hdone : Yields (headerComplete ((s.ctx sid st).whole type seq size ts)) fun r => ∃ u, r = .done () u :=
    headerComplete_done ⟨hrest, hgrants, hfree⟩
  rw [chunkAt_header type seq size ts hk.stream hk.unlocked hk.idle hk.seeking hk.half hk.fresh hdone,
    exec_prHdr_rest type seq size ts hk.stream hk.idle hdone, andThen_finish_returns]

/-- The inputs that bring a packet of a class are its header's bytes (R91, R94). -/
theorem exec_packet (hk : Seeks s sid st) {i : Instr}
    (hi : i ∈ (if type = st.conf.typeSof then [Instr.pktSof sid seq size ts] else []) ++
      (if type = st.conf.typeEof then [Instr.pktEof sid seq size ts] else []) ++
      [Instr.pktData sid type seq size ts, .prChunk sid (headerBytes s.cap.magicD2H type seq size ts)]) :
    exec i s = chunkAt sid (headerBytes s.cap.magicD2H type seq size ts) s := by
  simp only [List.mem_append, List.mem_ite_nil_right, List.mem_cons, List.not_mem_nil, or_false] at hi
  rcases hi with (⟨rfl, rfl⟩ | ⟨rfl, rfl⟩) | rfl | rfl
  · exact headerAt_eq (fun st => st.conf.typeSof) seq size ts hk.stream
  · exact headerAt_eq (fun st => st.conf.typeEof) seq size ts hk.stream
  · exact headerAt_eq (fun _ => type) seq size ts hk.stream
  · rfl

end Classes

end Sys2Proof.Machine

namespace Sys2Proof.Settled

open Machine

/-- Settles O44: a header in one chunk comes as far as `PR.HDR` does with it, and each class is what its start makes of the
view. -/
theorem pktClasses : Obligations.PktClasses := by
  intro s sid st seq size ts hs hl hj hp hm hh next loss lossEvent read timed pad
  have hk : Seeks s sid st := ⟨hs, hl, hj, hp, hm, hh⟩
  have hloss : lossOf (nextSeq s.cfg st.lastSeq) seq = loss := by
    simp [lossOf, nextSeq, loss, next, bne, decide_not, beq_eq_decide]
  have hevents : lossEvents sid (nextSeq s.cfg st.lastSeq) seq = lossEvent := by
    rw [lossEvents, hloss]
    rfl
  refine ⟨?padded, ?timed, ?others⟩
  case padded =>
    intro hpad hz hfit
    rw [exec_pktSof_padded hk hz hpad hfit, hloss, hevents]
    rfl
  case timed =>
    intro now io hmode hr hle hz hn time
    have ht : HostTimed s st now io := ⟨hmode, hr, hle, hn⟩
    refine ⟨fun hpad => ?_, fun htype => ?_, fun type htype => ?_⟩
    · rw [exec_pktSof_timed hk hz hpad ht, hloss, hevents]
      rfl
    · rw [exec_packet (type := st.conf.typeEof) (seq := seq) (size := size) (ts := ts) hk (by simp),
        chunkAt_started hk hz htype ht, hloss, hevents]
      rfl
    · rw [exec_packet (type := type) (seq := seq) (size := size) (ts := ts) hk (by simp),
        chunkAt_started hk hz htype ht, hloss, hevents]
      rfl
  case others =>
    intro hu type i hi
    rw [exec_packet hk hi]
    exact chunkAt_as_prHdr hk hu

end Sys2Proof.Settled
end

section
/-! PROOFS. An exchange that meets its replies (R123, R127, R131, R132): an attempt with its reply at hand, the repeats of a
device that is not ready, and the whole of `CT.EXEC`. -/

namespace Sys2Proof.Machine

/-! ### An attempt with its reply at hand -/

/-- What an attempt needs to come to its first receive: a clock that answers, time before its deadline, and a send that
succeeds (R127). -/
structure AttemptReady (c : CtCtx) (now : Micros) : Prop where
  clock : ClockSteady c.io now
  timed : 0 < c.timeout.toNat
  fits : now.toNat + c.timeout.toNat < 18446744073709551616
  sends : sendDraw c.io = some .ok

/-- The view of an attempt whose frame is out and that waits for its reply (R127). -/
def CtCtx.awaiting (c : CtCtx) (now : Micros) : CtCtx :=
  { c with
    io := { (c.io.reads now 2).puts [.tx c.x.reqFrame c.timeout] with sendQ := c.io.sendQ.tail }
    x := { c.x with deadline := now + c.timeout.setWidth 64, xrCnt := 0, phase := .reply } }

/-- An attempt comes to its receive, and takes the answers at hand (R127). -/
theorem ctAttempt_awaits {c : CtCtx} {now : Micros} (h : AttemptReady c now) :
    ctAttempt c = attemptDrain c.io.recvQ (c.awaiting now) := by
  have hdeadline := attemptDeadline_fits c.io.clock.reads h.fits
  have hahead : now < (c.sent now (c.io.reads now 1)).x.deadline := by
    show now < attemptDeadline c.io.clock.reads now c.timeout
    rw [hdeadline]
    exact lt_deadline h.fits h.timed
  rw [ctAttempt_sends (hostClock_steady h.clock) h.sends, replyNext,
    ctPoll_before (now := now) _ (clockSteady_reads h.clock 1) hahead, CtCtx.awaiting, ← hdeadline]
  rfl

/-- An attempt whose reply is the next answer ends with the result of its status: one send, one receive (R127, R131). -/
theorem ctAttempt_replied {c : CtCtx} {now : Micros} {status : Half} {data : List Byte} {q : List RecvAns}
    (h : AttemptReady c now) (hl : 10 + data.length ≤ c.cap.maxPkt.toNat) (hb : 2 + data.length ≤ c.cfg.bodyMax)
    (hq : c.io.recvQ = .data (replyBytes c.cap.magicD2H (BitVec.ofNat 16 (2 + data.length)) c.x.reqOp c.x.reqId status
      data) :: q) :
    ctAttempt c = (.done (statusResult status data).1, ((c.awaiting now).answered status data).leave q) := by
  have hlen : 2 + data.length < 65536 := by have := c.cap.maxPkt.isLt; omega
  rw [ctAttempt_awaits h, hq]
  exact attemptDrain_done (c := c.awaiting now) q rfl (answerFits_data (by simpa [CtCtx.awaiting] using hl))
    (attemptAnswer_matching (c := c.awaiting now) status data rfl hlen hb)

/-! ### The repeats of a device that is not ready -/

/-- The view of an exchange that is about to repeat its attempt (R132). -/
def CtCtx.repeating (c : CtCtx) : CtCtx :=
  { c with x := { c.x with nrCnt := c.x.nrCnt + 1 }, io := c.io.puts [.delay c.cfg.notReadyBackoffUs] }

/-- The not-ready error starts another attempt while repeats are left (R123, R132). -/
theorem execLoop_repeats {p : Progress ExecResult} {c : CtCtx} (left : Nat)
    (h : p.result = some (.err .deviceNotReady)) :
    execLoop (left + 1) (p, c) = execLoop left (ctAttempt c.repeating) := if_pos h

/-- What an attempt that is told that the device is not ready puts out (R127, R132). -/
def CtCtx.notReadyOutputs (c : CtCtx) : List Output :=
  [.tx c.x.reqFrame c.timeout, .rx c.timeout, .event .deviceNotReady]

/-- A not-ready reply to the exchange, with no data (R97, R99). -/
def CtCtx.notReadyReply (c : CtCtx) : RecvAns := .data (replyBytes c.cap.magicD2H 2 c.x.reqOp c.x.reqId 0x000D [])

/-- The ports after a not-ready reply (R127, R131). -/
theorem answered_notReady_io (c : CtCtx) (data : List Byte) :
    (c.answered 0x000D data).io = c.io.puts [.rx c.timeout, .event .deviceNotReady] := rfl

/-- The view of an exchange whose attempt was told that the device is not ready, the answers `q` left (R127, R131). -/
def CtCtx.toldNotReady (c : CtCtx) (now : Micros) (q : List RecvAns) : CtCtx :=
  ((c.awaiting now).answered 0x000D []).leave q

/-- What every attempt needs to end in a not-ready reply: sends that go on to succeed, and room for the reply (R132). -/
structure NotReadyMet (c : CtCtx) (now : Micros) : Prop extends AttemptReady c now where
  quiet : c.io.sendQ = []
  rest : c.io.sendRest = some .ok
  packet : 10 ≤ c.cap.maxPkt.toNat
  body : 2 ≤ c.cfg.bodyMax

section Repeats

variable {c : CtCtx} {now : Micros} {q : List RecvAns}

theorem ctAttempt_notReady (h : NotReadyMet c now) (hq : c.io.recvQ = c.notReadyReply :: q) :
    ctAttempt c = (.done (.err .deviceNotReady), c.toldNotReady now q) :=
  ctAttempt_replied (status := 0x000D) (data := []) h.toAttemptReady h.packet h.body hq

theorem toldNotReady_io (hs : c.io.sendQ = []) :
    (c.toldNotReady now q).io = { (c.io.reads now 2).puts c.notReadyOutputs with recvQ := q } := by
  rw [CtCtx.toldNotReady, CtCtx.leave_io, answered_notReady_io]
  simp [CtCtx.awaiting, CtCtx.notReadyOutputs, CtCtx.timeout, hs, Io.puts]

theorem repeating_toldNotReady_io (hs : c.io.sendQ = []) : (c.toldNotReady now q).repeating.io =
    { (c.io.reads now 2).puts (c.notReadyOutputs ++ [.delay c.cfg.notReadyBackoffUs]) with recvQ := q } := by
  rw [CtCtx.repeating, toldNotReady_io hs, ← puts_puts]
  rfl

/-- The next attempt needs nothing that the one before used up (R132). -/
theorem NotReadyMet.again (h : NotReadyMet c now) : NotReadyMet (c.toldNotReady now q).repeating now := by
  have hsent : (c.toldNotReady now q).repeating.io.sendQ = [] := by
    simp [repeating_toldNotReady_io h.quiet, h.quiet]
  have hsends : sendDraw (c.toldNotReady now q).repeating.io = some .ok := by
    rw [sendDraw, hsent]
    exact h.rest
  exact ⟨⟨clockSteady_reads h.clock 2, h.timed, h.fits, hsends⟩, hsent, h.rest, h.packet, h.body⟩

end Repeats

/-- A device that is never ready: each attempt is repeated after its backoff until no repeat is left, and the error is the
result (R132). -/
theorem execLoop_notReady {now : Micros} {q : List RecvAns} (left : Nat) :
    ∀ c : CtCtx, NotReadyMet c now → c.io.recvQ = List.replicate (left + 1) c.notReadyReply ++ q →
      ∃ d, execLoop left (ctAttempt c) = (some (.err .deviceNotReady), d) ∧ d.x.owner = c.x.owner ∧
        d.io = { (c.io.reads now (2 * (left + 1))).puts
          ((List.replicate left (c.notReadyOutputs ++ [.delay c.cfg.notReadyBackoffUs])).flatten ++ c.notReadyOutputs) with
            recvQ := q } := by
  induction left with
  | zero =>
    intro c h hq
    refine ⟨c.toldNotReady now q, by rw [ctAttempt_notReady h hq]; rfl, rfl, ?_⟩
    rw [toldNotReady_io h.quiet]
    rfl
  | succ left ih =>
    intro c h hq
    let rest := List.replicate (left + 1) c.notReadyReply ++ q
    obtain ⟨d, hloop, howner, hio⟩ := ih (c.toldNotReady now rest).repeating h.again rfl
    refine ⟨d, ?_, howner, hio.trans ?_⟩
    · rw [ctAttempt_notReady h (q := rest) hq]
      exact (execLoop_repeats left rfl).trans hloop
    · have hsame : (c.toldNotReady now rest).repeating.notReadyOutputs = c.notReadyOutputs := rfl
      have hcfg : (c.toldNotReady now rest).repeating.cfg = c.cfg := rfl
      have hreads : 2 * (left + 1 + 1) = 2 + 2 * (left + 1) := by omega
      rw [hsame, hcfg, repeating_toldNotReady_io h.quiet, hreads]
      simp [Io.puts, Io.reads, List.replicate_succ, Nat.add_assoc]

/-! ### The end of a new exchange -/

/-- A new exchange that comes to its result frees the lock and returns, its id taken (R123). -/
theorem beginExchange_ends {s : State} {a : Agent} {op : Half} {payload : List Byte} {r : ExecResult} {c : CtCtx}
    (hp : oversize s.cap payload = false)
    (h : execLoop s.cfg.notReadyRetries (ctAttempt (s.newCtx a op payload)) = (some r, c)) :
    s.beginExchange a op payload = .next { s with
      nextId := nextCorrelation s.cfg s.nextId, exchange := none, cmdLock := none, ret := .exec r
      io := c.io.puts (s.delays c.x.reqOp r ++ [.result c.x.owner (.exec r)]) } := by
  let s' : State := { s with cmdLock := some a, nextId := nextCorrelation s.cfg s.nextId }
  have hloop : execLoop (repeatsLeft (s'.ctCtx (newExchange s a op payload)))
      (ctAttempt (s'.ctCtx (newExchange s a op payload))) = (some r, c) := h
  rw [State.beginExchange, hp, if_neg Bool.false_ne_true]
  refine (congrArg s'.settle hloop).trans ?_
  exact settle_ends s' c r

/-! ### Going on after a reply -/

/-- A reply that an exchange waits for takes it on (R10, R97). -/
theorem replyAt_resumes {s : State} {x : Exchange} (size op id status : Half) (data : List Byte) (hx : s.exchange = some x)
    (hp : x.phase = .reply) : replyAt size op id status data s =
      ((s.returns .none).queued [.data (replyBytes s.cap.magicD2H size op id status data)]).resumeExchange :=
  receive_resumes (s := s.returns .none) _ hx (by rw [hp]; rfl)

/-- A matching reply, the only answer at hand, ends the attempt with the result of its status (R127, R131). -/
theorem attemptResume_replied {s : State} {x : Exchange} (status : Half) {data : List Byte} (hp : x.phase = .reply)
    (hq : s.io.recvQ = []) (hl : 10 + data.length ≤ s.cap.maxPkt.toNat) (hb : 2 + data.length ≤ s.cfg.bodyMax) :
    attemptResume ((s.queued [.data (replyBytes s.cap.magicD2H (BitVec.ofNat 16 (2 + data.length)) x.reqOp x.reqId status
      data)]).ctCtx x) = (.done (statusResult status data).1, (s.ctCtx x).answered status data) := by
  have hlen : 2 + data.length < 65536 := by have := s.cap.maxPkt.isLt; omega
  let reply := replyBytes s.cap.magicD2H (BitVec.ofNat 16 (2 + data.length)) x.reqOp x.reqId status data
  have hans := attemptAnswer_matching (c := s.metCtx x (.data reply)) status data hp hlen hb
  refine (attemptResume_met hq (by rw [hp]; rfl) (answerFits_data (by simpa [reply] using hl)) hans).trans ?_
  simp [State.metCtx, State.queued, CtCtx.answered, CtCtx.timeout, CtCtx.leave, Io.puts, hq, reply]

end Sys2Proof.Machine

namespace Sys2Proof.Settled

open Machine

/-- Settles O21: one attempt whose reply is at hand (`ctAttempt_replied`) is the whole exchange. -/
theorem ctExecReply : Obligations.CtExecReply := by
  intro s k op payload now status data q hv ho hp hlock hg hc ht hsum hk hstatus hl hb reply hq r event
  have hattempt := ctAttempt_replied (c := s.newCtx (.ci k) op payload) ⟨hc, ht, hsum, hk⟩ hl hb hq
  obtain ⟨hresult, hevent⟩ := statusResult_cases status data
  rw [if_neg hstatus] at hresult hevent
  have hready : (Progress.done r).result ≠ some (.err .deviceNotReady) := by
    simp only [Progress.result, r]
    split <;> simp
  have hloop := execLoop_passes s.cfg.notReadyRetries
    (((s.newCtx (.ci k) op payload).awaiting now).answered status data |>.leave q) hready
  rw [hresult] at hattempt
  rw [exec_ctExec_begins hv ho (cmdHeld_eq_false_iff.mpr hlock) hg,
    beginExchange_ends (oversize_eq_false hp) ((congrArg _ hattempt).trans hloop)]
  simp [CtCtx.answered, CtCtx.awaiting, hevent, State.newCtx, newExchange, ctFrame, nextCorrelation, CtCtx.timeout,
    State.timeout, Io.puts, event, r]

/-- Settles O22, by induction on the repeats left (`execLoop_notReady`). -/
theorem ctExecNotReadyBound : Obligations.CtExecNotReadyBound := by
  intro s k op payload now q hv ho hp hpkt hbody hlock hg hc ht hsum hsent hrest _ reply hq attempt
  have hmet : NotReadyMet (s.newCtx (.ci k) op payload) now :=
    ⟨⟨hc, ht, hsum, by simpa [sendDraw, State.newCtx, hsent] using hrest⟩, hsent, hrest, hpkt, hbody⟩
  obtain ⟨d, hloop, howner, hio⟩ := execLoop_notReady s.cfg.notReadyRetries _ hmet hq
  rw [exec_ctExec_begins hv ho (cmdHeld_eq_false_iff.mpr hlock) hg, beginExchange_ends (oversize_eq_false hp) hloop, howner,
    hio]
  simp [CtCtx.notReadyOutputs, State.newCtx, newExchange, ctFrame, nextCorrelation, State.delays, Io.puts, Io.reads, attempt]

/-- Settles O32: the reply ends its attempt as not ready (`attemptResume_replied`), and the loop sends the frame again or
returns the error. -/
theorem rspNotReady : Obligations.RspNotReady := by
  intro s x now data hx hp hq hk hl hb hc t ht hsum size
  let c := (s.ctCtx x).answered 0x000D data
  let met := (s.returns .none).queued [.data (replyBytes s.cap.magicD2H size x.reqOp x.reqId 0x000D data)]
  have hresume : attemptResume (met.ctCtx x) = (.done (.err .deviceNotReady), c) :=
    attemptResume_replied (s := s.returns .none) 0x000D hp hq hl hb
  have hexec : exec (.rspNackNotReady size x.reqOp x.reqId data) s =
      met.settle (execLoop (s.cfg.notReadyRetries - x.nrCnt.toNat) (.done (.err .deviceNotReady), c)) := by
    refine (replyAt_resumes size x.reqOp x.reqId 0x000D data hx hp).trans ((resumeExchange_eq (s := met) hx).trans ?_)
    rw [hresume]
    rfl
  have hio : c.io = s.io.puts [.rx t, .event .deviceNotReady] := answered_notReady_io (s.ctCtx x) data
  refine ⟨fun hleft => ?again, fun hnone => ?last⟩
  case again =>
    obtain ⟨left, hleft⟩ : ∃ left, s.cfg.notReadyRetries - x.nrCnt.toNat = left + 1 :=
      Nat.exists_eq_add_one.mpr (Nat.sub_pos_of_lt hleft)
    have hwaits := ctAttempt_polls (c := c.repeating) (now := now) hc hsum ht hk hq
    rw [hexec, hleft, execLoop_repeats left rfl, hwaits, execLoop_wait, settle_waits (blocked_of_no_answer hq)]
    simp only [CtCtx.repeating, hio, puts_reads, puts_puts]
    rfl
  case last =>
    rw [hexec, Nat.sub_eq_zero_of_le hnone]
    refine (settle_ends met c (.err .deviceNotReady)).trans ?_
    rw [hio, puts_puts]
    rfl

end Sys2Proof.Settled
end

section
/-! PROOFS. `CT.SCAN` and `CT.MATCH` (R128, R129): the header at the least offset of the magic, and the request it answers. -/

namespace Sys2Proof.Machine

/-! ### `CT.SCAN` -/

/-- The least offset at which two bytes stand next to each other is found (R128). -/
theorem findPair_eq_some {lo hi : Byte} {chunk : List Byte} {p : Nat} (hp : chunk[p]? = some lo ∧ chunk[p + 1]? = some hi)
    (hleast : ∀ i < p, ¬ (chunk[i]? = some lo ∧ chunk[i + 1]? = some hi)) : findPair lo hi chunk = some p := by
  induction chunk generalizing p with
  | nil => simp at hp
  | cons b0 rest ih =>
    cases rest with
    | nil => simp at hp
    | cons b1 rest =>
      cases p with
      | zero =>
        have hhead : b0 = lo ∧ b1 = hi := by simpa using hp
        rw [findPair, if_pos hhead]
      | succ p =>
        have hhead : ¬ (b0 = lo ∧ b1 = hi) := by simpa using hleast 0 (Nat.succ_pos p)
        have htail := ih (p := p) (by simpa using hp) fun i hi => by simpa using hleast (i + 1) (Nat.succ_lt_succ hi)
        rw [findPair, if_neg hhead, htail]

theorem halfAt_add (chunk : List Byte) (p i : Nat) : halfAt chunk (p + i) = halfAt (chunk.drop p) i := by
  simp [halfAt, List.getElem?_drop, Nat.add_assoc]

/-- A chunk without the magic; an empty one is no mismatch (R128). -/
theorem ctScan_noMagic {cap : Cap} {chunk : List Byte} (h : ∀ i, ¬ MagicAt cap chunk i) :
    ctScan cap chunk = (.none, if chunk.isEmpty then none else some .magic) := by
  have hnone : findPair (magicLo cap) (magicHi cap) chunk = none := findPair_eq_none h
  simp only [ctScan, hnone]

section Scan

variable {cap : Cap} {chunk : List Byte} {p : Nat}

/-- A header cut short by the chunk's end (R128). -/
theorem ctScan_truncated (hp : MagicAt cap chunk p) (hleast : ∀ i, i < p → ¬ MagicAt cap chunk i)
    (hl : chunk.length < p + 8) : ctScan cap chunk = (.malformed, some .truncated) := by
  have hfound : findPair (magicLo cap) (magicHi cap) chunk = some p := findPair_eq_some hp hleast
  have hshort : chunk.length - p < Config.cmdHdrSize := by
    show chunk.length - p < 8
    omega
  simp only [ctScan, hfound, if_pos hshort]

/-- A header that is all there: its size decides (R128). -/
theorem ctScan_header {m0 m1 s0 s1 o0 o1 i0 i1 : Byte} {rest : List Byte} (hp : MagicAt cap chunk p)
    (hleast : ∀ i, i < p → ¬ MagicAt cap chunk i)
    (hd : chunk.drop p = m0 :: m1 :: s0 :: s1 :: o0 :: o1 :: i0 :: i1 :: rest) :
    ctScan cap chunk = if (le16 s0 s1).toNat < 2 then (.malformed, some .size)
      else (.hdr ⟨p, le16 s0 s1, le16 o0 o1, le16 i0 i1⟩, none) := by
  have hfound : findPair (magicLo cap) (magicHi cap) chunk = some p := findPair_eq_some hp hleast
  have hwhole : ¬ chunk.length - p < Config.cmdHdrSize := by
    rw [← List.length_drop, hd]
    simp [Config.cmdHdrSize]
  simp only [ctScan, hfound, if_neg hwhole, halfAt_add, hd]
  rfl

end Scan

theorem exec_ctScan {s : State} {chunk : List Byte} {r : ScanResult} {cause : Option MismatchCause}
    (h : ctScan s.cap chunk = (r, cause)) : exec (.ctScan chunk) s = .next
      { s with ret := .scan r, io := s.io.puts ((mismatch cause).toList.map .event) } := by
  rw [exec, execCtScan, h, ← raiseSome_eq_puts]
  rfl

/-! ### `CT.MATCH` -/

theorem exec_ctMatch {s : State} {x : Exchange} {hdr : ReplyHdr} {ok : Bool} {cause : Option MismatchCause}
    (hx : s.exchange = some x) (h : ctMatch x hdr = (ok, cause)) : exec (.ctMatch hdr) s = .next
      { s with ret := .flag ok, io := s.io.puts ((mismatch cause).toList.map .event) } := by
  rw [exec, execCtMatch, ← raiseSome_eq_puts]
  refine (onExchange_next (r := .flag ok) (c := (s.ctCtx x).raiseSome (mismatch cause)) hx ?_ nofun).trans ?_
  · simp [h]
  · simp [hx]

theorem ctMatch_both {x : Exchange} {h : ReplyHdr} (hid : h.id = x.reqId) (hop : h.op = x.reqOp) :
    ctMatch x h = (true, none) := by
  rw [ctMatch, if_neg (not_not.mpr hid), if_neg (not_not.mpr hop)]

/-- The id is tested before the opcode (R129). -/
theorem ctMatch_otherId {x : Exchange} {h : ReplyHdr} (hid : h.id ≠ x.reqId) : ctMatch x h = (false, some .id) := if_pos hid

theorem ctMatch_otherOp {x : Exchange} {h : ReplyHdr} (hid : h.id = x.reqId) (hop : h.op ≠ x.reqOp) :
    ctMatch x h = (false, some .opcode) := by
  rw [ctMatch, if_neg (not_not.mpr hid), if_pos hop]

end Sys2Proof.Machine

namespace Sys2Proof.Settled

open Machine

/-- Settles O28: the least offset of the magic is found (`findPair_eq_some`), and the header that stands there decides. -/
theorem ctScanMatch : Obligations.CtScanMatch := by
  refine ⟨?scan, ?matching⟩
  case scan =>
    intro s chunk done
    refine ⟨?empty, fun hne hm => ?noMagic, fun p hp hleast => ⟨fun hl => ?truncated, ?header⟩⟩
    case empty =>
      rintro rfl
      exact exec_ctScan rfl
    case noMagic =>
      have h := ctScan_noMagic hm
      rw [List.isEmpty_eq_false_iff.mpr hne] at h
      exact exec_ctScan h
    case truncated => exact exec_ctScan (ctScan_truncated hp hleast hl)
    case header =>
      intro m0 m1 s0 s1 o0 o1 i0 i1 rest hd
      have h := ctScan_header hp hleast hd
      exact ⟨fun hz => exec_ctScan (h.trans (if_pos hz)), fun hz => exec_ctScan (h.trans (if_neg (Nat.not_lt.mpr hz)))⟩
  case matching =>
    intro s x h hx done
    exact ⟨fun hid hop => exec_ctMatch hx (ctMatch_both hid hop), fun hid => exec_ctMatch hx (ctMatch_otherId hid),
      fun hid hop => exec_ctMatch hx (ctMatch_otherOp hid hop)⟩

end Sys2Proof.Settled
end

section
/-! PROOFS. What a command operation does at once (R92, R99, R122, R124, R131, R138): `CT.DISCONNECT`, a `CT.EXEC` that is not
supported, `CT.FRAME` and `CT.STATUS`. -/

namespace Sys2Proof.Machine

/-! ### `CT.DISCONNECT` -/

/-- The condition of `CT.DISCONNECT` (R122). -/
theorem disconnectLegal_iff {s : State} : disconnectLegal s = true ↔
    s.capValid = true ∧ s.cmdLock = none ∧ ∀ st ∈ s.streams, st.pstate = .awaitingConfiguration := by
  simp only [disconnectLegal, Bool.and_eq_true, Bool.not_eq_true', cmdHeld_eq_false_iff, anyArmed_eq_false_iff, and_assoc]

/-- A connection that may end takes the clock's reference with it (R122). -/
theorem exec_ctDisconnect_ends {s : State} (h : disconnectLegal s = true) : exec (.ctDisconnect .host) s = .next
    { s with capValid := false, ref := { s.ref with valid := false }, streams := s.streams.map syForget, ret := .ok
             io := s.io.puts [.result .host .ok] } := by
  rw [exec, execCtDisconnect, if_neg (by simp), ctDisconnect, if_pos h]
  rfl

/-- One that may not stays as it is (R122). -/
theorem exec_ctDisconnect_refuses {s : State} (h : ¬ disconnectLegal s = true) : exec (.ctDisconnect .host) s = .next
    { s with ret := .refused, io := s.io.puts [.result .host .refused] } := by
  rw [exec, execCtDisconnect, if_neg (by simp), ctDisconnect, if_neg h]
  rfl

/-! ### `CT.STATUS` -/

/-- The table of R99 on the status word of a body (R131). -/
theorem exec_ctStatus (s : State) (status : Half) (data : List Byte) :
    exec (.ctStatus (halfBytes status ++ data)) s = .next
      { s with ret := .exec (statusResult status data).1
               io := s.io.puts ((statusResult status data).2.toList.map .event) } := by
  have hword : ¬ (halfBytes status ++ data).length < 2 := by simp [halfBytes]
  rw [exec, execCtStatus, if_neg hword, ctStatus_body, ← raiseSome_eq_puts]
  rfl

/-- A status other than success and not ready is a rejection under its name (R99, R131). -/
theorem exec_ctStatus_rejected (s : State) {status : Half} (data : List Byte) (h0 : status ≠ 0) (h1 : status ≠ 0x000D) :
    exec (.ctStatus (halfBytes status ++ data)) s = .next
      { s with ret := .exec (.err (.deviceRejected (nackName status) status))
               io := s.io.puts [.event (.deviceRejected (nackName status) status)] } := by
  rw [exec_ctStatus, statusResult_rejected data h0 h1]
  rfl

end Sys2Proof.Machine

namespace Sys2Proof.Settled

open Machine

/-- Settles O19: `disconnectLegal` tests the conditions of R122. -/
theorem ctDisconnect : Obligations.CtDisconnect := by
  intro s legal
  exact ⟨fun h => exec_ctDisconnect_ends (disconnectLegal_iff.mpr h),
    fun h => exec_ctDisconnect_refuses (mt disconnectLegal_iff.mp h)⟩

/-- Settles O20: the capability is tested before the size, the lock and the id. -/
theorem ctExecUnsupported : Obligations.CtExecUnsupported := by
  intro s k op payload h
  have htest : (!s.capValid || !opLookup s.cap.opValid op) = true := by simpa using h
  have hissuer : ¬ (!isIssuer (.ci k)) = true := nofun
  rw [exec, execCtExec, if_neg hissuer, if_pos htest]
  simp [State.reply, emit_eq_puts, raise_eq_puts]

/-- Settles O24: the frame is the eight bytes of its header and the payload. -/
theorem ctFrame : Obligations.CtFrame := by
  refine ⟨fun s op id payload hp => ?_, fun s op id payload hp => ?_⟩
  · rw [exec, execCtFrame, oversize_eq_false hp]
    rfl
  · rw [exec, execCtFrame, if_pos (oversize_eq_true hp)]

/-- Settles O30: each row of the table of R99. -/
theorem ctStatus : Obligations.CtStatus := by
  intro s status data body rejected named
  refine ⟨?ack, ?notReady, ?rejections, ?other⟩
  case ack =>
    rintro rfl
    exact (exec_ctStatus s 0 data).trans (by rw [statusResult_ack]; simp)
  case notReady =>
    rintro rfl
    exact exec_ctStatus s 0x000D data
  case rejections =>
    have row (code : Half) (h0 : code ≠ 0) (h1 : code ≠ 0x000D) := exec_ctStatus_rejected s data h0 h1
    rintro e he rfl
    simp only [named, List.mem_cons, List.not_mem_nil, or_false] at he
    rcases he with rfl | rfl | rfl | rfl | rfl
    all_goals exact row _ (by decide) (by decide)
  case other =>
    intro h0 h1 hnamed
    have code {n : Nat} (h : status ≠ BitVec.ofNat 16 n) : status.toNat ≠ n := mt eq_ofNat_of_toNat_eq h
    obtain ⟨hcrc, hparams, hfile, hoverflow, hlocked⟩ : status ≠ 0x0003 ∧ status ≠ 0x0005 ∧ status ≠ 0x0007 ∧
        status ≠ 0x000E ∧ status ≠ 0x0010 := by simpa [named] using hnamed
    have hcode : status.toNat ∉ [0x0000, 0x0003, 0x0005, 0x0007, 0x000D, 0x000E, 0x0010] := by
      simp only [List.mem_cons, List.not_mem_nil, or_false, not_or]
      exact ⟨code h0, code hcrc, code hparams, code hfile, code h1, code hoverflow, code hlocked⟩
    have h := exec_ctStatus_rejected s data h0 h1
    rwa [nackName_other hcode] at h

end Sys2Proof.Settled
end

section
/-! PROOFS. A piece of payload in two parts is the piece whole (R61, R183, R186, R243): the carried bytes and the piece are one
input of whole elements, and a write to the frame is all or nothing. -/

namespace Sys2Proof.Machine

/-! ### The codec's input -/

/-- The view of a stream that carries `bs` to its next piece and nothing else (R35). -/
def RdCtx.carrying (v : RdCtx) (bs : List Byte) : RdCtx :=
  { v with st := { v.st with cont := tableCells 0 bs, contLen := BitVec.ofNat 5 bs.length } }

/-- A store that holds what its count says is some bytes carried. -/
theorem carrying_of_holds {v : RdCtx} (h : Holds v.st.cont v.st.contLen.toNat) :
    ∃ pre : List Byte, v = v.carrying pre ∧ pre.length = v.st.contLen.toNat := by
  obtain ⟨pre, hcont, hlen⟩ := h.table
  refine ⟨pre, ?_, hlen⟩
  show v = { v with st := { v.st with cont := tableCells 0 pre, contLen := BitVec.ofNat 5 pre.length } }
  rw [← hcont, hlen, BitVec.ofNat_toNat, BitVec.setWidth_eq]

/-- Codes are mapped without a look at what is carried (R245). -/
theorem mapCodes_carrying (v : RdCtx) (bs : List Byte) (codes : List Nat) :
    mapCodes (v.carrying bs) codes = mapCodes v codes := by
  induction codes with
  | nil => rfl
  | cons r rs ih =>
    rw [mapCodes, mapCodes, ih]
    rfl

/-- An overflow empties what is carried, and a write that fits leaves it (R61, R186). -/
theorem appendOut_carrying {v : RdCtx} (bs out : List Byte) (hd : v.st.drop = false) :
    appendOut (v.carrying bs) out = if (appendOut v out).st.drop then appendOut v out else (appendOut v out).carrying bs := by
  by_cases hfit : v.st.outLen.toNat + out.length ≤ v.st.conf.outCap.toNat
  · rw [appendOut_fits (v := v.carrying bs) hfit, appendOut_fits hfit, if_neg (by simp [hd])]
    rfl
  · rw [appendOut_overflows (v := v.carrying bs) (Nat.not_le.mp hfit), appendOut_overflows (Nat.not_le.mp hfit)]
    rfl

theorem bdElementOut_carrying {v : RdCtx} (bs : List Byte) (w n : Nat) (elem : List Byte) (hd : v.st.drop = false) :
    bdElementOut (v.carrying bs) w n elem =
      (bdElementOut v w n elem).map fun u => if u.st.drop then u else u.carrying bs := by
  have hlist : bdElementList (v.carrying bs) w n elem = bdElementList v w n elem := mapCodes_carrying v bs _
  rw [bdElementOut, bdElementOut, hlist]
  cases bdElementList v w n elem with
  | error e => rfl
  | ok samples => exact congrArg Except.ok (appendOut_carrying bs _ hd)

/-- One element, then the rest of a piece unless the frame has come to drop (R243). -/
def elementThen (v : RdCtx) (w n : Nat) (elem rest : List Byte) : Except Fault RdCtx :=
  bdElementOut v w n elem >>= fun u => if u.st.drop then .ok u else feedWhole (u.carrying []) w n rest

theorem elementThen_carrying {v : RdCtx} (bs : List Byte) (w n : Nat) (elem rest : List Byte) (hd : v.st.drop = false) :
    elementThen (v.carrying bs) w n elem rest = elementThen v w n elem rest := by
  rw [elementThen, elementThen, bdElementOut_carrying bs w n elem hd]
  cases bdElementOut v w n elem with
  | error e => rfl
  | ok u =>
    show (if (if u.st.drop then u else u.carrying bs).st.drop then _ else _) = if u.st.drop then _ else _
    cases hu : u.st.drop with
    | true => simp [hu]
    | false => simp [hu, RdCtx.carrying]

/-- Fewer bytes than an element are all carried (R243). -/
theorem feedWhole_short (v : RdCtx) (w : Nat) {n : Nat} {bytes : List Byte} (h : bytes.length < n) :
    feedWhole v w n bytes = .ok (v.carrying bytes) := by
  rw [feedWhole, Nat.div_eq_of_lt h, RdCtx.carrying, ← writeCells_nil_zero]
  rfl

/-- Whole elements are taken from the front (R243). -/
theorem feedWhole_element {v : RdCtx} (w : Nat) {n : Nat} {bytes : List Byte} (hn : 1 ≤ n) (h : n ≤ bytes.length)
    (hd : v.st.drop = false) :
    feedWhole (v.carrying []) w n bytes = elementThen v w n (bytes.take n) (bytes.drop n) := by
  have hcount : bytes.length / n = (bytes.drop n).length / n + 1 := by
    rw [List.length_drop, Nat.div_eq_sub_div hn h]
  rw [feedWhole, hcount, feedElements, elementThen, bdElementOut_carrying [] w n _ hd]
  cases bdElementOut v w n (bytes.take n) with
  | error e => rfl
  | ok u =>
    cases hu : u.st.drop with
    | true => simp [Except.map, hu, Bind.bind, Except.bind]
    | false =>
      have hkeeps : (u.carrying []).st.drop = false := hu
      simp [Except.map, hu, hkeeps, Bind.bind, Except.bind, feedWhole]

/-- The carried bytes and a piece are one input (R243). -/
theorem bdFeed_carrying {v : RdCtx} (w : Nat) {n : Nat} {pre : List Byte} (bytes : List Byte) (h24 : n ≤ 24)
    (hp : pre.length < n) (hd : v.st.drop = false) :
    bdFeed (v.carrying pre) w n bytes = feedWhole (v.carrying []) w n (pre ++ bytes) := by
  have hc : (v.carrying pre).st.contLen.toNat = pre.length := contLen_ofNat (by omega)
  rcases List.eq_nil_or_concat pre with rfl | hne
  · rfl
  · have hpos : pre.length ≠ 0 := by
      obtain ⟨L, b, rfl⟩ := hne
      simp
    unfold bdFeed
    dsimp only
    rw [hc, if_neg hpos]
    have hgrown (m : Nat) : writeCells (v.carrying pre).st.cont pre.length (bytes.take m) =
        tableCells 0 (pre ++ bytes.take m) := writeCells_tableCells_zero _ _
    rw [hgrown]
    by_cases hshort : pre.length + bytes.length < n
    · have hm : min bytes.length (n - pre.length) = bytes.length := by omega
      rw [hm, if_pos hshort, List.take_length, feedWhole_short _ w (by simpa using hshort), RdCtx.carrying]
      simp [RdCtx.carrying]
    · have hm : min bytes.length (n - pre.length) = n - pre.length := by omega
      have hfull : pre.length + (n - pre.length) = n := by omega
      have helem : (pre ++ bytes).take n = pre ++ bytes.take (n - pre.length) := by
        rw [List.take_append, List.take_of_length_le (by omega)]
      have hrest : (pre ++ bytes).drop n = bytes.drop (n - pre.length) := by
        rw [List.drop_append, List.drop_of_length_le (by omega), List.nil_append]
      have hlen : (pre ++ bytes.take (n - pre.length)).length = n := by
        rw [← helem, List.length_take, List.length_append]
        omega
      rw [hm, hfull, if_neg (Nat.lt_irrefl n)]
      have hread := readCells_tableCells .cont (pre ++ bytes.take (n - pre.length))
      have hview : v.carrying (pre ++ bytes.take (n - pre.length)) = { v with st := { v.st with
          cont := tableCells 0 (pre ++ bytes.take (n - pre.length)), contLen := BitVec.ofNat 5 n } } := by
        rw [RdCtx.carrying, hlen]
      rw [hlen] at hread
      rw [hread, feedWhole_element w (by omega) (by simp; omega) hd, helem, hrest,
        ← elementThen_carrying (pre ++ bytes.take (n - pre.length)) w n _ _ hd, hview]
      rfl

/-- Where an input is cut changes nothing, unless the frame has come to drop (R190, R243). -/
theorem feedWhole_append (w : Nat) {n : Nat} (hn : 1 ≤ n) (h24 : n ≤ 24) (b : List Byte) :
    ∀ (k : Nat) (v : RdCtx) (a : List Byte), a.length ≤ k → v.st.drop = false →
      feedWhole (v.carrying []) w n (a ++ b) =
        feedWhole (v.carrying []) w n a >>= fun u => if u.st.drop then .ok u else bdFeed u w n b := by
  intro k
  induction k with
  | zero =>
    intro v a ha hd
    obtain rfl : a = [] := List.length_eq_zero_iff.mp (by omega)
    have hkeeps : (v.carrying []).st.drop = false := hd
    rw [feedWhole_short (bytes := []) _ w (by simp; omega)]
    show _ = if ((v.carrying []).carrying []).st.drop then _ else bdFeed (v.carrying []) w n b
    rw [show ((v.carrying []).carrying []).st.drop = false from hd, bdFeed_carrying w b h24 (by simp; omega) hd]
    rfl
  | succ k ih =>
    intro v a ha hd
    by_cases hshort : a.length < n
    · rw [feedWhole_short _ w hshort]
      show _ = if (v.carrying a).st.drop then _ else bdFeed (v.carrying a) w n b
      rw [show (v.carrying a).st.drop = false from hd, bdFeed_carrying w b h24 hshort hd]
      rfl
    · have hlong : n ≤ a.length := by omega
      rw [feedWhole_element w hn (by simp; omega) hd, feedWhole_element w hn hlong hd,
        List.take_append_of_le_length hlong, List.drop_append_of_le_length hlong, elementThen, elementThen, bind_assoc]
      refine bind_congr fun u => ?_
      cases hu : u.st.drop with
      | true => simp [hu, Bind.bind, Except.bind]
      | false => exact ih u (a.drop n) (by simp; omega) hu

/-- `BD.FEED` of a piece in two parts (R190, R243). -/
theorem bdFeed_append {v : RdCtx} (w : Nat) {n : Nat} (a b : List Byte) (hn : 1 ≤ n) (h24 : n ≤ 24)
    (hd : v.st.drop = false) (hcont : Holds v.st.cont v.st.contLen.toNat) (hshort : v.st.contLen.toNat < n) :
    bdFeed v w n (a ++ b) = bdFeed v w n a >>= fun u => if u.st.drop then .ok u else bdFeed u w n b := by
  obtain ⟨pre, hv, hlen⟩ := carrying_of_holds hcont
  rw [hv, bdFeed_carrying w _ h24 (by omega) hd, bdFeed_carrying w _ h24 (by omega) hd, ← List.append_assoc]
  exact feedWhole_append w hn h24 b _ v _ (Nat.le_refl _) hd

/-! ### A piece of payload -/

theorem writeCells_append {α : Type} (a b : List α) :
    ∀ (m : Cells α) (n : Nat), writeCells m n (a ++ b) = writeCells (writeCells m n a) (n + a.length) b := by
  induction a with
  | nil => exact fun _ _ => rfl
  | cons x xs ih =>
    intro m n
    show writeCells (writeCell m n x) (n + 1) (xs ++ b) = _
    rw [ih, List.length_cons, Nat.add_assoc, Nat.add_comm 1]
    rfl

/-- A write to the frame in two parts comes to what it comes to whole (R61, R186, R190). -/
theorem appendOut_append {v : RdCtx} (a b : List Byte) (hd : v.st.drop = false) :
    appendOut v (a ++ b) = if (appendOut v a).st.drop then appendOut v a else appendOut (appendOut v a) b := by
  have hcap := v.st.conf.outCap.isLt
  by_cases ha : v.st.outLen.toNat + a.length ≤ v.st.conf.outCap.toNat
  · let u : RdCtx := { v with st := { v.st with
      out := writeCells v.st.out v.st.outLen.toNat a, outLen := BitVec.ofNat 32 (v.st.outLen.toNat + a.length) } }
    have hlen : u.st.outLen.toNat = v.st.outLen.toNat + a.length := by
      show (BitVec.ofNat 32 _).toNat = _
      rw [BitVec.toNat_ofNat, Nat.mod_eq_of_lt (by omega)]
    rw [show appendOut v a = u from appendOut_fits ha, if_neg (by simp [u, hd])]
    by_cases hb : v.st.outLen.toNat + a.length + b.length ≤ v.st.conf.outCap.toNat
    · rw [appendOut_fits (by simpa [Nat.add_assoc] using hb), appendOut_fits (v := u) (by rw [hlen]; exact hb), hlen,
        List.length_append, ← Nat.add_assoc, writeCells_append]
    · rw [appendOut_overflows (v := v) (by simp; omega),
        appendOut_overflows (v := u) (by rw [hlen]; exact Nat.not_le.mp hb)]
      rfl
  · rw [appendOut_overflows (v := v) (bs := a) (by omega), appendOut_overflows (by simp; omega)]
    rfl

/-- A piece of payload in two parts is the piece whole (R183, R190). -/
theorem prPiece_append {v : RdCtx} (a b : List Byte) (hc : cfgLegal v.cfg = true) (hf : FrameInv v.cfg v.st) :
    prPiece v (a ++ b) = prPiece v a >>= fun u => prPiece u b := by
  cases hd : v.st.drop with
  | true =>
    have hdropped (bs : List Byte) : prPiece v bs = .ok v := if_pos hd
    rw [hdropped, hdropped]
    exact (hdropped b).symm
  | false =>
    have hcont := hf.contInv
    have packed (w n : Nat) (he : ElementOf v.cfg v.st.conf.codec n) (hp : ∀ u, Frames v u → ∀ bs,
        prPiece u bs = if u.st.drop then .ok u else bdFeed u w n bs) :
        prPiece v (a ++ b) = prPiece v a >>= fun u => prPiece u b := by
      obtain ⟨hn, h24⟩ := he.bounds hc
      rw [hp v (.refl v), hp v (.refl v), if_neg (by simp [hd]), if_neg (by simp [hd]),
        bdFeed_append w a b hn h24 hd hcont.cont (hcont.short he)]
      cases hu : bdFeed v w n a with
      | error e => rfl
      | ok u => exact (hp u (bdFeed_frames v w n a u hu) b).symm
    cases hcodec : v.st.conf.codec with
    | pass =>
      have hpass (u : RdCtx) (hu : Frames v u) (bs : List Byte) :
          prPiece u bs = if u.st.drop then .ok u else .ok (appendOut u bs) := by
        have hcodec' : u.st.conf.codec = .pass := by rw [hu.record]; exact hcodec
        rw [prPiece, hcodec']
      rw [hpass v (.refl v), hpass v (.refl v), if_neg (by simp [hd]), if_neg (by simp [hd]), appendOut_append a b hd]
      show _ = prPiece (appendOut v a) b
      rw [hpass _ (appendOut_frames v a)]
      split <;> rfl
    | unpack11 =>
      refine packed 11 v.cfg.elemIn11 (.inl ⟨hcodec, rfl⟩) fun u hu bs => ?_
      have hcodec' : u.st.conf.codec = .unpack11 := by rw [hu.record]; exact hcodec
      rw [prPiece, hcodec', ← hu.cfg]
    | unpack12 =>
      refine packed 12 v.cfg.elemIn12 (.inr ⟨hcodec, rfl⟩) fun u hu bs => ?_
      have hcodec' : u.st.conf.codec = .unpack12 := by rw [hu.record]; exact hcodec
      rw [prPiece, hcodec', ← hu.cfg]
    | xform =>
      have hnone (bs : List Byte) : prPiece v bs = .error .codecUnspecified := by
        rw [prPiece, hcodec, if_neg (by simp [hd])]
      rw [hnone, hnone]
      rfl

end Sys2Proof.Machine
end

section
/-! PROOFS. A round of a chunk on its first byte and then on the rest (R170 to R175, R190): each per-state operation either is done
with the first byte, or goes on from it as it would have. -/

namespace Sys2Proof.Machine

/-! ### The payload's counts -/

/-- The view with other counts of the packet's payload. -/
def RdCtx.metered (v : RdCtx) (off left : Half) : RdCtx := { v with st := { v.st with dataOff := off, dataLeft := left } }

section Meters

variable (off left : Half)

theorem mapCodes_metered (v : RdCtx) (codes : List Nat) : mapCodes (v.metered off left) codes = mapCodes v codes := by
  induction codes with
  | nil => rfl
  | cons r rs ih =>
    rw [mapCodes, mapCodes, ih]
    rfl

theorem appendOut_metered (v : RdCtx) (bs : List Byte) :
    appendOut (v.metered off left) bs = (appendOut v bs).metered off left :=
  ite_mapped (RdCtx.metered · off left) rfl rfl

theorem bdElementOut_metered (v : RdCtx) (w n : Nat) (elem : List Byte) :
    bdElementOut (v.metered off left) w n elem = (bdElementOut v w n elem).map (RdCtx.metered · off left) := by
  have hlist : bdElementList (v.metered off left) w n elem = bdElementList v w n elem := mapCodes_metered off left v _
  rw [bdElementOut, bdElementOut, hlist, map_bind]
  exact bind_congr fun samples => congrArg Except.ok (appendOut_metered off left v _)

theorem feedElements_metered (w n k : Nat) : ∀ (v : RdCtx) (bytes : List Byte),
    feedElements w n k (v.metered off left) bytes =
      (feedElements w n k v bytes).map (Prod.map (RdCtx.metered · off left) id) := by
  induction k with
  | zero => exact fun _ _ => rfl
  | succ k ih =>
    intro v bytes
    refine bind_heldBy (bdElementOut_metered off left v w n (bytes.take n)) fun u => ?_
    exact ite_mapped (Except.map (Prod.map (RdCtx.metered · off left) id)) rfl (ih u _)

theorem feedWhole_metered (v : RdCtx) (w n : Nat) (bytes : List Byte) :
    feedWhole (v.metered off left) w n bytes = (feedWhole v w n bytes).map (RdCtx.metered · off left) := by
  refine bind_heldBy (feedElements_metered off left w n _ v bytes) fun (u, rest) => ?_
  cases rest <;> rfl

theorem bdFeed_metered (v : RdCtx) (w n : Nat) (bytes : List Byte) :
    bdFeed (v.metered off left) w n bytes = (bdFeed v w n bytes).map (RdCtx.metered · off left) := by
  refine ite_mapped (Except.map (RdCtx.metered · off left)) (feedWhole_metered off left v w n bytes)
    (ite_mapped (Except.map (RdCtx.metered · off left)) rfl ?_)
  rw [map_bind]
  refine bind_congr fun elem => ?_
  let carried : RdCtx := { v with st := { v.st with
    cont := writeCells v.st.cont v.st.contLen.toNat (bytes.take (min bytes.length (n - v.st.contLen.toNat)))
    contLen := BitVec.ofNat 5 (v.st.contLen.toNat + min bytes.length (n - v.st.contLen.toNat)) } }
  refine bind_heldBy (bdElementOut_metered off left carried w n elem) fun u => ?_
  exact ite_mapped (Except.map (RdCtx.metered · off left)) rfl
    (feedWhole_metered off left (u.carrying []) w n _)

/-- A piece comes to the same, whatever is counted of the payload (R183). -/
theorem prPiece_metered (v : RdCtx) (bytes : List Byte) :
    prPiece (v.metered off left) bytes = (prPiece v bytes).map (RdCtx.metered · off left) := by
  refine ite_mapped (Except.map (RdCtx.metered · off left)) rfl ?_
  show (match v.st.conf.codec with | .pass => _ | .unpack11 => _ | .unpack12 => _ | .xform => _) = _
  cases v.st.conf.codec with
  | pass => exact congrArg Except.ok (appendOut_metered off left v bytes)
  | unpack11 => exact bdFeed_metered off left v 11 _ bytes
  | unpack12 => exact bdFeed_metered off left v 12 _ bytes
  | xform => rfl

end Meters

/-! ### A payload's end -/

/-- A frame action leaves the counts of the packet's payload (R175). -/
theorem Frames.meters {v u : RdCtx} (h : Frames v u) : u.st.dataOff = v.st.dataOff ∧ u.st.dataLeft = v.st.dataLeft := by
  rw [h.record]
  exact ⟨rfl, rfl⟩

/-- The view after `k` bytes of the payload (R175). -/
def RdCtx.taken (k : Nat) (u : RdCtx) : RdCtx :=
  u.metered (BitVec.ofNat 16 (u.st.dataOff.toNat + k)) (BitVec.ofNat 16 (u.st.dataLeft.toNat - k))

/-- The end of `PR.DATA`, once `k` bytes of the payload are handed on (R175). -/
def payloadEnd (k : Nat) (u : RdCtx) : Except Fault RdCtx :=
  if u.st.dataLeft.toNat - k = 0 then prPktend (u.taken k) else .ok (u.taken k)

theorem prData_eq (v : RdCtx) (rest : List Byte) :
    prData v rest = prPiece v (rest.take (min rest.length v.st.dataLeft.toNat)) >>= fun u =>
      (payloadEnd (min rest.length v.st.dataLeft.toNat) u).map fun w => (min rest.length v.st.dataLeft.toNat, w) := by
  refine bind_congr fun u => ?_
  unfold payloadEnd
  split
  · rename_i hz
    rw [if_pos (by exact hz)]
    show prPktend (u.taken _) >>= _ = _
    cases prPktend (u.taken _) <;> rfl
  · rename_i hz
    exact if_neg (by exact hz)

theorem taken_left (k : Nat) (u : RdCtx) : (u.taken k).st.dataLeft.toNat = u.st.dataLeft.toNat - k := by
  have := u.st.dataLeft.isLt
  show (BitVec.ofNat 16 (u.st.dataLeft.toNat - k)).toNat = _
  rw [BitVec.toNat_ofNat, Nat.mod_eq_of_lt (by omega)]

theorem taken_taken {u : RdCtx} {j : Nat} (k : Nat) (h : u.st.dataOff.toNat + j < 65536) :
    (u.taken j).taken k = u.taken (j + k) := by
  have hoff : (u.taken j).st.dataOff.toNat = u.st.dataOff.toNat + j := by
    show (BitVec.ofNat 16 (u.st.dataOff.toNat + j)).toNat = _
    rw [BitVec.toNat_ofNat, Nat.mod_eq_of_lt h]
  show RdCtx.metered _ _ _ = _
  rw [hoff, taken_left, Nat.sub_sub, Nat.add_assoc]
  rfl

/-- What is read of a payload in two parts (R175, R190). -/
theorem payloadEnd_taken {u : RdCtx} {j : Nat} (k : Nat) (h : u.st.dataOff.toNat + j < 65536) :
    payloadEnd k (u.taken j) = payloadEnd (j + k) u := by
  rw [payloadEnd, payloadEnd, taken_left, taken_taken k h, Nat.sub_sub]

/-! ### A round on the first byte -/

/-- A round that goes on from its first byte: on the rest it does what it would have done (R190). -/
def GoesOn (v : RdCtx) (x : Byte) (xs : List Byte) : Prop :=
  chunkRound v (x :: xs) = chunkRound v [x] >>= fun p => (chunkRound p.2.ctx xs).map fun q => (q.1 + 1, q.2)

/-- Either a round is done with the first byte, or it goes on from there (R170, R190). -/
def Cuts (v : RdCtx) (x : Byte) (xs : List Byte) : Prop := chunkRound v (x :: xs) = chunkRound v [x] ∨ GoesOn v x xs

/-- A payload of one more byte is done with it; any other goes on (R175, R183). -/
theorem prData_cuts {v : RdCtx} (x : Byte) {xs : List Byte} (hp : v.st.pstate = .readingData)
    (hc : cfgLegal v.cfg = true) (hf : FrameInv v.cfg v.st)
    (hb : v.st.dataOff.toNat + v.st.dataLeft.toNat < 65536) (hl : 1 ≤ v.st.dataLeft.toNat) : Cuts v x xs := by
  have hround (u : RdCtx) (hu : u.st.pstate = .readingData) (rest : List Byte) :
      chunkRound u rest = prData u rest >>= fun p => .ok (throughout p) := by
    unfold chunkRound
    rw [hu]
  by_cases hone : v.st.dataLeft.toNat = 1
  · left
    have hk : min (x :: xs).length v.st.dataLeft.toNat = 1 := by simp; omega
    have hk' : min [x].length v.st.dataLeft.toNat = 1 := by simp; omega
    rw [hround v hp, hround v hp, prData_eq, prData_eq, hk, hk']
    rfl
  · right
    obtain ⟨k, hk⟩ : ∃ k, min xs.length (v.st.dataLeft.toNat - 1) = k := ⟨_, rfl⟩
    have hwhole : min (x :: xs).length v.st.dataLeft.toNat = 1 + k := by simp; omega
    have hfirst : min [x].length v.st.dataLeft.toNat = 1 := by simp; omega
    rw [GoesOn, hround v hp, hround v hp, prData_eq, prData_eq, hwhole, hfirst]
    have hpiece : (x :: xs).take (1 + k) = [x] ++ xs.take k := by rw [Nat.add_comm]; rfl
    rw [hpiece, prPiece_append _ _ hc hf]
    show (prPiece v [x] >>= _) >>= _ >>= _ = (prPiece v [x] >>= _) >>= _ >>= _
    cases hu : prPiece v [x] with
    | error e => rfl
    | ok u =>
      have hframes := prPiece_frames v [x] u hu
      obtain ⟨hoff, hleft⟩ := hframes.meters
      have hstate : (u.taken 1).st.pstate = .readingData := by
        show u.st.pstate = _
        rw [hframes.record]
        exact hp
      have hgo : payloadEnd 1 u = .ok (u.taken 1) := if_neg (by rw [hleft]; omega)
      have hrest : min xs.length (u.taken 1).st.dataLeft.toNat = k := by rw [taken_left, hleft, hk]
      show prPiece u (xs.take k) >>= _ >>= _ = (payloadEnd 1 u).map _ >>= _ >>= _
      rw [hgo]
      show _ = (chunkRound (u.taken 1) xs).map _
      rw [hround _ hstate, prData_eq, hrest, show u.taken 1 = RdCtx.metered u _ _ from rfl, prPiece_metered]
      cases hw : prPiece u (xs.take k) with
      | error e => rfl
      | ok w =>
        obtain ⟨hoff', hleft'⟩ := (prPiece_frames u _ w hw).meters
        have htaken : w.metered (BitVec.ofNat 16 (u.st.dataOff.toNat + 1)) (BitVec.ofNat 16 (u.st.dataLeft.toNat - 1)) =
            w.taken 1 := by
          rw [RdCtx.taken, hoff', hleft']
        have hpast : w.st.dataOff.toNat + 1 < 65536 := by
          rw [hoff', hoff]
          omega
        show (payloadEnd (1 + k) w).map _ >>= _ = ((payloadEnd k (w.metered _ _)).map _ >>= _).map _
        rw [htaken, payloadEnd_taken k hpast]
        cases payloadEnd (1 + k) w with
        | error e => rfl
        | ok z => simp [Except.map, throughout, Bind.bind, Except.bind, Nat.add_comm]

/-- The view after more bytes of a header (R174). -/
def RdCtx.gathered (v : RdCtx) (bs : List Byte) : RdCtx :=
  { v with st := { v.st with
    hdr := writeCells v.st.hdr v.st.hdrCnt.toNat bs, hdrCnt := BitVec.ofNat 4 (v.st.hdrCnt.toNat + bs.length) } }

/-- Fewer bytes than the header needs are stored (R174). -/
theorem prHdr_part {v : RdCtx} {rest : List Byte} (h : v.st.hdrCnt.toNat + rest.length < 12) :
    prHdr v rest = .ok (rest.length, .done () (v.gathered rest)) := by
  have hsize : Config.hdrSize = 12 := rfl
  have hk : min rest.length (Config.hdrSize - v.st.hdrCnt.toNat) = rest.length := by omega
  unfold prHdr
  dsimp only
  rw [hk, if_neg (by omega), List.take_length]
  rfl

/-- With the twelfth byte the header is complete (R174). -/
theorem prHdr_full {v : RdCtx} {rest : List Byte} (hc : v.st.hdrCnt.toNat ≤ 12)
    (h : 12 ≤ v.st.hdrCnt.toNat + rest.length) :
    prHdr v rest = (headerComplete (v.gathered (rest.take (12 - v.st.hdrCnt.toNat)))).map
      fun r => (12 - v.st.hdrCnt.toNat, r) := by
  have hsize : Config.hdrSize = 12 := rfl
  have hk : min rest.length (Config.hdrSize - v.st.hdrCnt.toNat) = 12 - v.st.hdrCnt.toNat := by omega
  have hlen : (rest.take (12 - v.st.hdrCnt.toNat)).length = 12 - v.st.hdrCnt.toNat := by
    rw [List.length_take]
    omega
  unfold prHdr RdCtx.gathered
  dsimp only
  rw [hk, if_pos (by omega), hlen]
  cases headerComplete _ <;> rfl

/-- A header that lacks one byte is done with it; any other goes on (R174). -/
theorem prHdr_cuts {v : RdCtx} (x : Byte) {xs : List Byte} (hp : v.st.pstate = .readingHeader)
    (h : v.st.hdrCnt.toNat ≤ 11) : Cuts v x xs := by
  have hround (u : RdCtx) (hu : u.st.pstate = .readingHeader) (rest : List Byte) : chunkRound u rest = prHdr u rest := by
    unfold chunkRound
    rw [hu]
  by_cases hlast : v.st.hdrCnt.toNat = 11
  · left
    rw [hround v hp, hround v hp, prHdr_full (by omega) (by simp; omega), prHdr_full (by omega) (by simp; omega), hlast]
    rfl
  · right
    have hcnt : (v.gathered [x]).st.hdrCnt.toNat = v.st.hdrCnt.toNat + 1 := by
      show (BitVec.ofNat 4 (v.st.hdrCnt.toNat + 1)).toNat = _
      rw [BitVec.toNat_ofNat, Nat.mod_eq_of_lt (by omega)]
    have hmore (bs : List Byte) : (v.gathered [x]).gathered bs = v.gathered (x :: bs) := by
      show { v with st := { v.st with
        hdr := writeCells (writeCells v.st.hdr v.st.hdrCnt.toNat [x]) (v.gathered [x]).st.hdrCnt.toNat bs
        hdrCnt := BitVec.ofNat 4 ((v.gathered [x]).st.hdrCnt.toNat + bs.length) } } = _
      rw [hcnt, RdCtx.gathered, List.length_cons, Nat.add_assoc, Nat.add_comm 1]
      rfl
    rw [GoesOn, hround v hp, hround v hp, prHdr_part (rest := [x]) (by simp; omega)]
    show _ = (chunkRound (v.gathered [x]) xs).map _
    rw [hround _ (by exact hp)]
    by_cases hshort : v.st.hdrCnt.toNat + (x :: xs).length < 12
    · have hlen : (x :: xs).length = xs.length + 1 := rfl
      rw [prHdr_part hshort, prHdr_part (by rw [hcnt]; omega), hmore]
      rfl
    · have hlen : (x :: xs).length = xs.length + 1 := rfl
      have hleft : 12 - v.st.hdrCnt.toNat = 12 - (v.st.hdrCnt.toNat + 1) + 1 := by omega
      rw [prHdr_full (by omega) (by omega), prHdr_full (by omega) (by omega), hcnt, hmore, hleft, List.take_succ_cons]
      cases headerComplete _ <;> rfl

/-- Garbage of which one byte is left is done with it; any other goes on (R172). -/
theorem prIgnore_cuts {v : RdCtx} (x : Byte) {xs : List Byte} (hp : v.st.pstate = .ignoringGarbage)
    (hl : 1 ≤ v.st.ignLeft.toNat) : Cuts v x xs := by
  have hround (u : RdCtx) (hu : u.st.pstate = .ignoringGarbage) (rest : List Byte) :
      chunkRound u rest = .ok (throughout (prIgnore u rest)) := by
    unfold chunkRound
    rw [hu]
  have hlen : (x :: xs).length = xs.length + 1 := rfl
  by_cases hone : v.st.ignLeft.toNat = 1
  · left
    have hk : min (x :: xs).length v.st.ignLeft.toNat = 1 := by omega
    have hk' : min [x].length v.st.ignLeft.toNat = 1 := by simp; omega
    rw [hround v hp, hround v hp, prIgnore, prIgnore, hk, hk']
  · right
    have hbound := v.st.ignLeft.isLt
    have hfirst : prIgnore v [x] =
        (1, { v with st := { v.st with ignLeft := BitVec.ofNat 32 (v.st.ignLeft.toNat - 1) } }) := by
      have hk' : min [x].length v.st.ignLeft.toNat = 1 := by simp; omega
      rw [prIgnore, hk', if_neg (by omega)]
    have hleft : (BitVec.ofNat 32 (v.st.ignLeft.toNat - 1)).toNat = v.st.ignLeft.toNat - 1 := by
      rw [BitVec.toNat_ofNat, Nat.mod_eq_of_lt (by omega)]
    have hwhole : min (x :: xs).length v.st.ignLeft.toNat = min xs.length (v.st.ignLeft.toNat - 1) + 1 := by omega
    have hsub : v.st.ignLeft.toNat - (min xs.length (v.st.ignLeft.toNat - 1) + 1) =
        v.st.ignLeft.toNat - 1 - min xs.length (v.st.ignLeft.toNat - 1) := by omega
    rw [GoesOn, hround v hp, hround v hp, hfirst]
    show _ = (chunkRound { v with st := { v.st with ignLeft := BitVec.ofNat 32 (v.st.ignLeft.toNat - 1) } } xs).map _
    rw [hround _ (by exact hp)]
    simp only [prIgnore, hwhole, hsub, hleft]
    rfl

/-- Every round of a sound stream can be cut after its first byte (R170, R190). -/
theorem chunkRound_cuts {b : Bool} {v : RdCtx} (x : Byte) (xs : List Byte) (h : InChunk b v) : Cuts v x xs := by
  cases hp : v.st.pstate with
  | awaitingConfiguration =>
    have hround (rest : List Byte) : chunkRound v rest = .ok (rest.length, .done () v) := by
      unfold chunkRound
      rw [hp]
      rfl
    right
    rw [GoesOn, hround, hround]
    show _ = (chunkRound v xs).map _
    rw [hround]
    rfl
  | ignoringGarbage =>
    obtain ⟨-, -, hleft, -⟩ := h.parser
    exact prIgnore_cuts x hp (hleft hp)
  | seekingMagic =>
    left
    unfold chunkRound
    rw [hp]
  | readingHeader =>
    obtain ⟨-, h11⟩ := h.parser.heading hp (by simp [Stream.inChunk, h.job])
    exact prHdr_cuts x hp h11
  | readingData =>
    obtain ⟨hpayload, hleft⟩ := h.parser.inPayload hp
    exact prData_cuts x hp h.cfg h.frame hpayload.bound hleft

end Sys2Proof.Machine
end

section
/-! PROOFS. Where nothing has to wait, a chunk is its bytes one after another, and so two runs of chunks with the same bytes come
to the same (R18, R170, R190). -/

namespace Sys2Proof.Machine

/-! ### Nothing waits inside a chunk -/

section Prompt

variable {v : RdCtx}

/-- What has to wait is no matter of the record. -/
theorem RdCtx.Prompt.record (h : v.Prompt) (st : Stream) : RdCtx.Prompt { v with st := st } := ⟨h.answers, h.grants, h.free⟩

theorem RdCtx.Prompt.emit (h : v.Prompt) (o : Output) : (v.emit o).Prompt := ⟨h.answers, h.grants, h.free⟩

theorem appendOut_prompt (h : v.Prompt) (bs : List Byte) : (appendOut v bs).Prompt := by
  unfold appendOut
  dsimp only
  split
  · exact (h.emit _).record _
  · exact h.record _

theorem bdElementOut_prompt (h : v.Prompt) (w n : Nat) (elem : List Byte) :
    Yields (bdElementOut v w n elem) RdCtx.Prompt :=
  (yields_trivial _).bind fun _ _ => yields_ok (appendOut_prompt h _)

theorem feedElements_prompt (w n k : Nat) : ∀ (v : RdCtx) (bytes : List Byte), v.Prompt →
    Yields (feedElements w n k v bytes) fun p => p.1.Prompt := by
  induction k with
  | zero => exact fun v bytes h => yields_ok h
  | succ k ih =>
    intro v bytes h
    refine (bdElementOut_prompt h w n _).bind fun u hu => ?_
    split
    · exact yields_ok hu
    · exact ih u _ hu

theorem feedWhole_prompt (h : v.Prompt) (w n : Nat) (bytes : List Byte) :
    Yields (feedWhole v w n bytes) RdCtx.Prompt := by
  refine (feedElements_prompt w n _ v bytes h).bind fun (u, rest) hu => ?_
  cases rest with
  | none => exact yields_ok hu
  | some r => exact yields_ok (hu.record _)

theorem bdFeed_prompt (h : v.Prompt) (w n : Nat) (bytes : List Byte) : Yields (bdFeed v w n bytes) RdCtx.Prompt := by
  unfold bdFeed
  dsimp only
  split
  · exact feedWhole_prompt h w n bytes
  · split
    · exact yields_ok (h.record _)
    · refine (yields_trivial _).bind fun elem _ => (bdElementOut_prompt (h.record _) w n elem).bind fun u hu => ?_
      split
      · exact yields_ok hu
      · exact feedWhole_prompt (hu.record _) w n _

theorem prPiece_prompt (h : v.Prompt) (bytes : List Byte) : Yields (prPiece v bytes) RdCtx.Prompt := by
  unfold prPiece
  split
  · exact yields_ok h
  · split
    · exact yields_ok (appendOut_prompt h bytes)
    · exact bdFeed_prompt h 11 _ bytes
    · exact bdFeed_prompt h 12 _ bytes
    · exact yields_error _

theorem prPad_prompt (h : v.Prompt) (k : Nat) : (prPad v k).Prompt := by
  unfold prPad
  split
  · exact h
  · exact appendOut_prompt h _

theorem frameEnd_prompt (h : v.Prompt) : v.frameEnd.Prompt := by
  have hpadded := prPad_prompt h v.st.trailPad.toNat
  unfold RdCtx.frameEnd
  dsimp only
  split
  · exact ((hpadded.record _).emit _).record _
  · exact (hpadded.record _).record _

theorem prEof_prompt (h : v.Prompt) : Yields (prEof v) RdCtx.Prompt := by
  rw [prEof_eq]
  have hpublish : Yields (prPublish v.frameEnd) RdCtx.Prompt :=
    (yields_trivial _).bind fun _ _ => yields_ok (((((frameEnd_prompt h).emit _).emit _).emit _).record _)
  exact hpublish.bind fun u hu => yields_ok (hu.record _)

theorem packetEnd_prompt (h : v.Prompt) (hd : Header) : Yields (packetEnd v hd) RdCtx.Prompt := by
  unfold packetEnd
  dsimp only
  split
  · exact (prEof_prompt h).bind fun u hu => yields_ok (hu.record _)
  · exact yields_ok (h.record _)

theorem prPktend_prompt (h : v.Prompt) : Yields (prPktend v) RdCtx.Prompt :=
  (yields_trivial _).bind fun hd _ => packetEnd_prompt h hd

theorem headerTail_prompt (h : v.Prompt) (hd : Header) : Yields (headerTail v hd) RdCtx.Prompt := by
  unfold headerTail
  split
  · exact packetEnd_prompt h hd
  · exact yields_ok (h.record _)

theorem headerComplete_ends (h : v.Prompt) : Yields (headerComplete v) Run.Ends := by
  refine (yields_trivial _).bind fun hd _ => (packetStart_ends hd h).bind fun r hr => ?_
  exact Run.bind_ends hr fun _ u hu => (headerTail_prompt hu hd).bind fun w hw => yields_ends hw

theorem prHdr_ends (h : v.Prompt) (rest : List Byte) : Yields (prHdr v rest) fun p => p.2.Ends := by
  unfold prHdr
  dsimp only
  split
  · exact (headerComplete_ends (h.record _)).bind fun r hr => yields_ok hr
  · exact yields_ok ⟨(), _, rfl, h.record _⟩

theorem prData_prompt (h : v.Prompt) (rest : List Byte) : Yields (prData v rest) fun p => p.2.Prompt := by
  refine (prPiece_prompt h _).bind fun u hu => ?_
  dsimp only
  split
  · exact (prPktend_prompt (hu.record _)).bind fun w hw => yields_ok hw
  · exact yields_ok (hu.record _)

/-- No round of a chunk waits (R18, R170). -/
theorem chunkRound_ends (h : v.Prompt) (rest : List Byte) : Yields (chunkRound v rest) fun p => p.2.Ends := by
  unfold chunkRound
  split
  · exact yields_ok ⟨(), v, rfl, h⟩
  · exact yields_ok ⟨(), _, rfl, h.record _⟩
  · split
    · exact yields_ok ⟨(), v, rfl, h⟩
    · unfold prSeek
      split <;> exact yields_ok ⟨(), _, rfl, h.record _⟩
  · exact prHdr_ends h rest
  · exact (prData_prompt h rest).bind fun p hp => yields_ok ⟨(), _, rfl, hp⟩

end Prompt

/-! ### A chunk byte by byte -/

/-- No round consumes more than there is (R170). -/
theorem chunkRound_consumed (v : RdCtx) (rest : List Byte) (hb : rest ≠ []) :
    Yields (chunkRound v rest) fun p => p.1 ≤ rest.length := by
  have hpos : 1 ≤ rest.length := List.length_pos_iff.mpr hb
  unfold chunkRound
  split
  · exact yields_ok (Nat.le_refl _)
  · exact yields_ok (Nat.min_le_left _ _)
  · split
    · exact yields_ok (Nat.zero_le _)
    · unfold prSeek
      split <;> exact yields_ok hpos
  · unfold prHdr
    dsimp only
    split
    · exact (yields_trivial _).bind fun r _ => yields_ok (Nat.min_le_left _ _)
    · exact yields_ok (Nat.min_le_left _ _)
  · rw [prData_eq]
    refine Yields.bind (P := fun p => p.1 ≤ rest.length) ?_ fun p hp => yields_ok hp
    refine (yields_trivial _).bind fun u _ => (yields_trivial (payloadEnd _ u)).bind fun w _ => ?_
    exact yields_ok (Nat.min_le_left _ _)

/-- Rounds enough are as good as more (R170). -/
theorem chunkLoop_fuel : ∀ (f g : Nat) (v : RdCtx) (bytes : List Byte), bytes.length ≤ f → bytes.length ≤ g →
    chunkLoop f v bytes = chunkLoop g v bytes := by
  intro f
  induction f with
  | zero =>
    intro g v bytes hf hg
    obtain rfl : bytes = [] := List.length_eq_zero_iff.mp (by omega)
    cases g <;> rfl
  | succ f ih =>
    intro g v bytes hf hg
    cases bytes with
    | nil => cases g <;> rfl
    | cons x xs =>
      obtain ⟨g, rfl⟩ : ∃ k, g = k + 1 := ⟨g - 1, by simp at hg; omega⟩
      simp only [List.length_cons] at hf hg
      rw [chunkLoop, chunkLoop]
      refine bind_congr fun (k, r) => ?_
      by_cases hk : k = 0
      · simp [hk]
      · have hrest : ((x :: xs).drop k).length ≤ xs.length := by
          rw [List.length_drop, List.length_cons]
          omega
        cases r with
        | done a u => simpa [hk] using ih g u _ (by omega) (by omega)
        | wait w u => rfl

/-- The view of a sound stream inside a chunk in which nothing waits. -/
structure Flows (b : Bool) (v : RdCtx) : Prop where
  chunk : InChunk b v
  prompt : v.Prompt

/-- A round of a chunk in which nothing waits (R170). -/
theorem Flows.round {b : Bool} {v : RdCtx} (h : Flows b v) {rest : List Byte} (hb : rest ≠ []) :
    Sure (chunkRound v rest) fun p => ∃ k u, p = (k + 1, .done () u) ∧ k + 1 ≤ rest.length ∧ Flows b u ∧ u.sid = v.sid ∧
      u.cfg = v.cfg ∧ u.cap = v.cap := by
  have hround := ((chunkRound_goes rest h.chunk hb).and (chunkRound_ends h.prompt rest)).and
    (chunkRound_consumed v rest hb)
  refine hround.mono ?_
  rintro ⟨k, r⟩ ⟨⟨⟨hk, hgoes⟩, a, u, rfl, hu⟩, hle⟩
  obtain ⟨hin, hshare⟩ := hgoes
  obtain ⟨k, rfl⟩ : ∃ j, k = j + 1 := ⟨k - 1, by dsimp only at hk; omega⟩
  exact ⟨k, u, rfl, hle, ⟨hin, hu⟩, hshare.sid, hshare.cfg, hshare.cap⟩

/-- A chunk is its first byte and then its rest (R170, R190). -/
theorem Flows.loop_cons {b : Bool} {v : RdCtx} (h : Flows b v) (x : Byte) (xs : List Byte) :
    chunkLoop (xs.length + 1) v (x :: xs) = chunkLoop 1 v [x] >>= fun u => chunkLoop xs.length u xs := by
  cases xs with
  | nil =>
    show _ = chunkLoop 1 v [x] >>= Except.ok
    exact (bind_pure _).symm
  | cons y ys =>
    have hfirst := h.round (rest := [x]) (by simp)
    cases hx : chunkRound v [x] with
    | error e =>
      have hwhole : chunkRound v (x :: y :: ys) = .error e := by
        obtain hstop | hgo := chunkRound_cuts x (y :: ys) h.chunk
        · exact hstop.trans hx
        · rw [hgo, hx]
          rfl
      rw [chunkLoop_fault _ hwhole, chunkLoop_fault _ hx]
      rfl
    | ok p =>
      rw [hx] at hfirst
      obtain ⟨k, u, rfl, hle, hu, -⟩ := hfirst
      obtain rfl : k = 0 := by simpa using hle
      rw [show chunkLoop 1 v [x] = .ok u from chunkLoop_round 0 hx]
      show _ = chunkLoop (ys.length + 1) u (y :: ys)
      obtain hstop | hgo := chunkRound_cuts x (y :: ys) h.chunk
      · exact chunkLoop_round _ (hstop.trans hx)
      · have hrest := hu.round (rest := y :: ys) (by simp)
        rw [GoesOn, hx] at hgo
        have hgo : chunkRound v (x :: y :: ys) = (chunkRound u (y :: ys)).map fun q => (q.1 + 1, q.2) := hgo
        cases hy : chunkRound u (y :: ys) with
        | error e =>
          rw [hy] at hgo
          rw [chunkLoop_fault _ hgo, chunkLoop_fault _ hy]
        | ok q =>
          rw [hy] at hgo hrest
          obtain ⟨j, w, rfl, -⟩ := hrest
          rw [chunkLoop_round _ hgo, chunkLoop_round _ hy]
          exact chunkLoop_fuel _ _ w _ (by simp; omega) (by simp)

/-- A chunk in which nothing waits (R170). -/
theorem Flows.loop {b : Bool} (fuel : Nat) : ∀ (v : RdCtx) (bytes : List Byte), bytes.length ≤ fuel → Flows b v →
    Sure (chunkLoop fuel v bytes) fun u => Flows b u ∧ u.sid = v.sid ∧ u.cfg = v.cfg ∧ u.cap = v.cap := by
  induction fuel with
  | zero =>
    intro v bytes hl h
    obtain rfl : bytes = [] := List.length_eq_zero_iff.mp (by omega)
    exact sure_ok ⟨h, rfl, rfl, rfl⟩
  | succ fuel ih =>
    intro v bytes hl h
    cases bytes with
    | nil => exact sure_ok ⟨h, rfl, rfl, rfl⟩
    | cons x xs =>
      refine (h.round (rest := x :: xs) (by simp)).bind ?_
      rintro - ⟨k, u, rfl, -, hu, hsid, hcfg, hcap⟩
      have hrest : (xs.drop k).length ≤ fuel := by
        rw [List.length_drop]
        simp only [List.length_cons] at hl
        omega
      exact (ih u (xs.drop k) hrest hu).mono fun w ⟨hw, h1, h2, h3⟩ =>
        ⟨hw, h1.trans hsid, h2.trans hcfg, h3.trans hcap⟩

/-- Two chunks, one after the other, are one chunk (R190). -/
theorem Flows.loop_append {b : Bool} (ys : List Byte) : ∀ (xs : List Byte) (v : RdCtx), Flows b v →
    chunkLoop (xs ++ ys).length v (xs ++ ys) = chunkLoop xs.length v xs >>= fun u => chunkLoop ys.length u ys := by
  intro xs
  induction xs with
  | nil => exact fun v h => rfl
  | cons x xs ih =>
    intro v h
    show chunkLoop ((xs ++ ys).length + 1) v (x :: (xs ++ ys)) = chunkLoop (xs.length + 1) v (x :: xs) >>= _
    rw [h.loop_cons, h.loop_cons, bind_assoc]
    cases hx : chunkLoop 1 v [x] with
    | error e => rfl
    | ok u =>
      have hu := Flows.loop 1 v [x] (by simp) h
      rw [hx] at hu
      exact ih u hu.1

/-! ### Runs of chunks -/

/-- The end of a chunk in which nothing waits: its lock is given back (R75, R170). -/
theorem Flows.chunkEnd {b : Bool} {v : RdCtx} (h : Flows b v) : chunkEnd v = (.none, v.unlock) := by
  have hj := h.chunk.job
  simp [Machine.chunkEnd, Stream.inJob, hj]

/-- A chunk in which nothing waits (R75, R170). -/
theorem Flows.prChunk {b : Bool} {v : RdCtx} (h : Flows b (v.lock (.rd v.sid))) (bytes : List Byte) :
    prChunk v bytes = chunkLoop bytes.length (v.lock (.rd v.sid)) bytes >>= fun u => .ok (.none, u.unlock) := by
  have hloop := Flows.loop bytes.length _ bytes (Nat.le_refl _) h
  unfold Machine.prChunk
  cases hu : chunkLoop bytes.length (v.lock (.rd v.sid)) bytes with
  | error e => rfl
  | ok u =>
    rw [hu] at hloop
    exact congrArg Except.ok hloop.1.chunkEnd

/-- Between two chunks a stream's lock is free, and its next chunk takes it again (R75). -/
theorem Flows.relock {b : Bool} {u : RdCtx} (h : Flows b u) : u.unlock.lock (.rd u.unlock.sid) = u := by
  have hl : u.st.lock = some (.rd u.sid) := h.chunk.lock
  show { u with st := { u.st with lock := some (.rd u.sid) } } = u
  rw [← hl]

/-- A run of chunks is one chunk of all their bytes, where nothing has to wait (R190). -/
theorem runChunks_flatten {b : Bool} {sid : Nat} : ∀ (xs : List (List Byte)) (s : State) (st : Stream), xs ≠ [] →
    s.streams[sid]? = some st → st.lock = none → st.job = none → Flows b ((s.ctx sid st).lock (.rd sid)) →
    runChunks sid xs s = s.finish
      (chunkLoop xs.flatten.length ((s.ctx sid st).lock (.rd sid)) xs.flatten >>= fun u => .ok (.none, u.unlock)) := by
  intro xs
  induction xs with
  | nil => exact fun s st h => absurd rfl h
  | cons x xs ih =>
    intro s st _ hs hl hj h
    have hexec : exec (.prChunk sid x) s = s.finish
        (chunkLoop x.length ((s.ctx sid st).lock (.rd sid)) x >>= fun u => .ok (.none, u.unlock)) :=
      (chunkAt_begins x hs hl hj).trans (congrArg s.finish (Flows.prChunk (v := s.ctx sid st) h x))
    have hloop := Flows.loop x.length _ x (Nat.le_refl _) h
    rw [runChunks, hexec, List.flatten_cons, h.loop_append]
    cases hu : chunkLoop x.length ((s.ctx sid st).lock (.rd sid)) x with
    | error e => rfl
    | ok u =>
      rw [hu] at hloop
      obtain ⟨hflows, hsid, hcfg, hcap⟩ := hloop
      have hsid : u.sid = sid := hsid
      show runChunks sid xs (s.leaves .none u.unlock) =
        s.finish (chunkLoop xs.flatten.length u xs.flatten >>= fun w => .ok (.none, w.unlock))
      cases xs with
      | nil => rfl
      | cons y ys =>
        have hview : ((s.leaves .none u.unlock).ctx sid u.unlock.st).lock (.rd sid) = u := by
          rw [← hsid]
          show ((s.leaves .none u.unlock).ctx u.unlock.sid u.unlock.st).lock (.rd u.sid) = u
          rw [leaves_ctx (v := u.unlock) hcfg hcap]
          exact hflows.relock
        rw [ih (s.leaves .none u.unlock) u.unlock.st (by simp) (leaves_stream (v := u.unlock) hs hsid _) rfl
          hflows.chunk.job (by rw [hview]; exact hflows), hview]
        refine finish_leaves (v := u.unlock) _ ?_
        refine Yields.bind (P := fun w => w.sid = u.sid) (fun w hw => ?_) fun w hw => yields_ok hw
        have hrest := Flows.loop (y :: ys).flatten.length u (y :: ys).flatten (Nat.le_refl _) hflows
        rw [hw] at hrest
        exact hrest.2.1

/-- The view of an idle stream of a sound state, its lock taken for a chunk (R75). -/
theorem flows_of_inv {s : State} {sid : Nat} {st : Stream} (h : Inv s) (hu : Unhindered s)
    (hs : s.streams[sid]? = some st) (hj : st.job = none) :
    st.lock = none ∧ Flows s.capValid ((s.ctx sid st).lock (.rd sid)) := by
  obtain ⟨hstill, hclocked⟩ := (soundView_of_inv h hs).of_idle hj
  obtain ⟨hrest, hgrants, hfree⟩ := hu
  exact ⟨hstill.lock, hstill.inChunk hclocked, ⟨hrest, hgrants, hfree⟩⟩

/-- No chunk is run on a stream that does not exist (R108). -/
theorem runChunks_noStream {s : State} {sid : Nat} {xs : List (List Byte)} (hs : s.streams[sid]? = none) (hx : xs ≠ []) :
    runChunks sid xs s = .refused (.illFormed .noSuchStream) := by
  cases xs with
  | nil => exact absurd rfl hx
  | cons x xs =>
    have hexec : exec (.prChunk sid x) s = .refused (.illFormed .noSuchStream) := by
      show chunkAt sid x s = _
      rw [chunkAt, State.onReader, hs]
    rw [runChunks, hexec]

end Sys2Proof.Machine

namespace Sys2Proof.Settled

open Machine

/-- Settles O10: any run of chunks is one chunk of the bytes of all. -/
theorem chunkCutIndependence : Obligations.ChunkCutIndependence := by
  intro s sid xs ys hinv hu hidle hx hy hflat
  cases hs : s.streams[sid]? with
  | none => rw [runChunks_noStream hs hx, runChunks_noStream hs hy]
  | some st =>
    obtain ⟨hl, hflows⟩ := flows_of_inv hinv hu hs (hidle st hs)
    rw [runChunks_flatten xs s st hx hs hl (hidle st hs) hflows, runChunks_flatten ys s st hy hs hl (hidle st hs) hflows,
      hflat]

end Sys2Proof.Settled
end

section
/-! PROOFS. A chunk of a stream timed by the host clock alone never comes to a value beyond 64 bits (R170, R182, R219, R222), so
that a chunk of any bytes runs from a sound state to a sound one. -/

namespace Sys2Proof.Machine

/-! ### Computations that do not come to the width bound -/

/-- A computation that does not fault by a value beyond 64 bits (U14). -/
def Fits64 {α : Type} (x : Except Fault α) : Prop := x ≠ .error .outOf64Bits

section Fits64

variable {α β : Type} {x : Except Fault α}

theorem fits64_ok (a : α) : Fits64 (.ok a) := nofun

theorem Fits64.bind {f : α → Except Fault β} (hx : Fits64 x) (hf : ∀ a, x = .ok a → Fits64 (f a)) : Fits64 (x >>= f) := by
  cases x with
  | error e => exact fun h => hx (congrArg Except.error (Except.error.inj h))
  | ok a => exact hf a rfl

theorem Fits64.map (hx : Fits64 x) (f : α → β) : Fits64 (x.map f) := by
  cases x with
  | error e => exact fun h => hx (congrArg Except.error (Except.error.inj h))
  | ok a => exact nofun

end Fits64

/-! ### Frames and payload -/

theorem readCells_fits64 {α : Type} (sp : Space) (m : Cells α) (n : Nat) : ∀ a, Fits64 (readCells sp m a n) := by
  induction n with
  | zero => exact fun a => nofun
  | succ n ih =>
    intro a
    unfold readCells
    split
    · exact nofun
    · exact (ih (a + 1)).bind fun vs _ => fits64_ok _

theorem readHeader_fits64 (hdr : Memory) : Fits64 (readHeader hdr) :=
  (readCells_fits64 .hdr hdr 12 0).bind fun _ _ => fits64_ok _

theorem bdMap_fits64 (v : RdCtx) (r : Nat) : Fits64 (bdMap v r) := by
  unfold bdMap
  split
  · exact nofun
  · split
    · split <;> exact nofun
    · exact nofun

theorem mapCodes_fits64 (v : RdCtx) (codes : List Nat) : Fits64 (mapCodes v codes) := by
  induction codes with
  | nil => exact nofun
  | cons r rs ih => exact (bdMap_fits64 v r).bind fun _ _ => ih.bind fun _ _ => fits64_ok _

theorem bdElementOut_fits64 (v : RdCtx) (w n : Nat) (elem : List Byte) : Fits64 (bdElementOut v w n elem) :=
  (mapCodes_fits64 v _).bind fun _ _ => fits64_ok _

theorem feedElements_fits64 (w n k : Nat) : ∀ (v : RdCtx) (bytes : List Byte), Fits64 (feedElements w n k v bytes) := by
  induction k with
  | zero => exact fun v bytes => nofun
  | succ k ih =>
    intro v bytes
    refine (bdElementOut_fits64 v w n _).bind fun u _ => ?_
    split
    · exact nofun
    · exact ih u _

theorem feedWhole_fits64 (v : RdCtx) (w n : Nat) (bytes : List Byte) : Fits64 (feedWhole v w n bytes) := by
  refine (feedElements_fits64 w n _ v bytes).bind fun (u, rest) _ => ?_
  cases rest <;> exact nofun

theorem bdFeed_fits64 (v : RdCtx) (w n : Nat) (bytes : List Byte) : Fits64 (bdFeed v w n bytes) := by
  unfold bdFeed
  dsimp only
  split
  · exact feedWhole_fits64 v w n bytes
  · split
    · exact nofun
    · refine Fits64.bind (readCells_fits64 _ _ _ _) fun elem _ => (bdElementOut_fits64 _ w n elem).bind fun u _ => ?_
      split
      · exact nofun
      · exact feedWhole_fits64 _ w n _

theorem prPiece_fits64 (v : RdCtx) (bytes : List Byte) : Fits64 (prPiece v bytes) := by
  unfold prPiece
  split
  · exact nofun
  · split
    · exact nofun
    · exact bdFeed_fits64 v 11 _ bytes
    · exact bdFeed_fits64 v 12 _ bytes
    · exact nofun

theorem prEof_fits64 (v : RdCtx) : Fits64 (prEof v) := by
  rw [prEof_eq]
  exact Fits64.map (Fits64.bind (readCells_fits64 _ _ _ _) fun _ _ => fits64_ok _) _

theorem packetEnd_fits64 (v : RdCtx) (h : Header) : Fits64 (packetEnd v h) := by
  unfold packetEnd
  dsimp only
  split
  · exact (prEof_fits64 v).bind fun _ _ => fits64_ok _
  · exact nofun

theorem prPktend_fits64 (v : RdCtx) : Fits64 (prPktend v) := (readHeader_fits64 _).bind fun h _ => packetEnd_fits64 v h

theorem headerTail_fits64 (v : RdCtx) (h : Header) : Fits64 (headerTail v h) := by
  unfold headerTail
  split
  · exact packetEnd_fits64 v h
  · exact nofun

theorem prData_fits64 (v : RdCtx) (rest : List Byte) : Fits64 (prData v rest) := by
  rw [prData_eq]
  refine (prPiece_fits64 v _).bind fun u _ => Fits64.map ?_ _
  unfold payloadEnd
  split
  · exact prPktend_fits64 _
  · exact nofun

/-! ### The time by the host clock -/

/-- The time elapsed since a reference that lies before the clock fits its register (R219). -/
theorem csElapsed_fits64 {v : RdCtx} (op : TimeOp) (h : v.refFits) : Fits64 (csElapsed op v) := by
  unfold csElapsed
  split
  · exact nofun
  · rename_i now io hn
    have hafter : v.ref.host.toNat ≤ now.toNat := BitVec.le_trans h.1 (hostClock_ge_last hn)
    rw [to64_ok (by omega) (by omega)]
    exact nofun

theorem csBegin_hostonly_fits64 {v : RdCtx} (h : Clocked v) : Fits64 (csBegin .hostonly v) := by
  unfold csBegin
  dsimp only
  split
  · rename_i hv
    exact csElapsed_fits64 _ (h.ref hv)
  · have hcomes := csEstablish_comes (op := .hostonly) ⟨rfl, Nat.two_pow_pos v.cfg.tickBits⟩ nofun h
    cases hr : csEstablish .hostonly v with
    | wait w u => exact nofun
    | done a u =>
      rw [hr] at hcomes
      obtain ⟨⟨hu, hv⟩, -⟩ := hcomes
      exact csElapsed_fits64 _ (hu.ref hv)

/-- A stream that takes its times from the host clock alone (R30, R182). -/
def RdCtx.hostTimed (v : RdCtx) : Prop := v.st.conf.tsMode = .hostOnly

theorem Keeps.hostTimed {v u : RdCtx} (h : Keeps v u) (hv : v.hostTimed) : u.hostTimed := by
  have hconf : u.st.conf = v.st.conf := congrArg Prod.fst h.setup
  rw [RdCtx.hostTimed, hconf]
  exact hv

theorem prTime_fits64 {v : RdCtx} (h : Header) (hv : v.hostTimed) (hc : Clocked v) : Fits64 (prTime v h) := by
  have hop : timeOp v.cfg v.st h = .hostonly := by rw [timeOp, show v.st.conf.tsMode = .hostOnly from hv]
  rw [prTime, hop]
  refine (csBegin_hostonly_fits64 hc).bind fun r _ => ?_
  cases r <;> exact nofun

theorem packetStart_fits64 {v : RdCtx} (h : Header) (hv : v.hostTimed) (hc : Clocked v) : Fits64 (packetStart v h) := by
  have hf := packetBegun_frames v h
  rw [packetStart_eq]
  split
  · exact nofun
  · exact prTime_fits64 h (hf.keeps.hostTimed hv) (hc.frames hf)

theorem headerComplete_fits64 {v : RdCtx} (hv : v.hostTimed) (hc : Clocked v) : Fits64 (headerComplete v) := by
  refine (readHeader_fits64 _).bind fun h _ => (packetStart_fits64 h hv hc).bind fun r _ => ?_
  cases r with
  | wait w u => exact nofun
  | done a u => exact (headerTail_fits64 u h).bind fun _ _ => fits64_ok _

/-! ### A chunk -/

theorem chunkRound_fits64 {v : RdCtx} (rest : List Byte) (hv : v.hostTimed) (hc : Clocked v) :
    Fits64 (chunkRound v rest) := by
  unfold chunkRound
  split
  · exact nofun
  · exact nofun
  · split <;> exact nofun
  · unfold prHdr
    dsimp only
    split
    · exact (headerComplete_fits64 (by exact hv) (by exact ⟨hc.lock, hc.sync, hc.ref⟩)).bind fun _ _ => fits64_ok _
    · exact nofun
  · exact (prData_fits64 v rest).bind fun _ _ => fits64_ok _

theorem chunkLoop_fits64 {b : Bool} (fuel : Nat) : ∀ (v : RdCtx) (bytes : List Byte), v.hostTimed → InChunk b v →
    Fits64 (chunkLoop fuel v bytes) := by
  induction fuel with
  | zero => intro v bytes hv h; cases bytes <;> exact nofun
  | succ fuel ih =>
    intro v bytes hv h
    cases bytes with
    | nil => exact nofun
    | cons x xs =>
      refine (chunkRound_fits64 (x :: xs) hv h.clocked).bind fun (k, r) hr => ?_
      have hgoes := chunkRound_goes (x :: xs) h (by simp)
      have hkeeps := chunkRound_keeps v (x :: xs) _ hr
      rw [hr] at hgoes
      obtain ⟨-, hgoes⟩ := hgoes
      dsimp only
      split
      · exact nofun
      · cases r with
        | wait w u => exact nofun
        | done a u => exact ih u _ (hkeeps.hostTimed hv) hgoes.1

theorem prChunk_fits64 {b : Bool} {v : RdCtx} (bytes : List Byte) (hv : v.hostTimed) (hs : Still b v) (hc : Clocked v) :
    Fits64 (prChunk v bytes) :=
  (chunkLoop_fits64 bytes.length (v.lock (.rd v.sid)) bytes hv (hs.inChunk hc)).bind fun _ _ => fits64_ok _

section Arrival

variable {s : State} {sid : Nat} {st : Stream} {bytes : List Byte}

/-- A chunk for a stream that exists is held, or runs to its end or to a fault; not to that of the width bound where the stream
is timed by the host clock alone (R170, R222). -/
theorem chunkAt_runs (h : Inv s) (hs : s.streams[sid]? = some st) :
    (∃ t, chunkAt sid bytes s = .next t ∧ Inv t) ∨
      (st.conf.tsMode ≠ .hostOnly ∧ chunkAt sid bytes s = .fault .outOf64Bits) := by
  have hsid : sid < s.cfg.nStreams := h.count ▸ (List.getElem?_eq_some_iff.mp hs).1
  have hsafe : Safe (RefStays s) (chunkAt sid bytes s) :=
    chunkAt_safe h ⟨rfl, by simp [Instr.check, Instr.stream?, hsid, Instr.operandProblem]⟩
  cases hbusy : st.locked || st.inJob with
  | true =>
    have hheld : chunkAt sid bytes s = .next (s.hold (.prChunk sid bytes)) := onReader_waits hs hbusy
    rw [hheld] at hsafe ⊢
    exact .inl ⟨_, rfl, hsafe.1⟩
  | false =>
    have hruns : chunkAt sid bytes s = s.finish (prChunk (s.ctx sid st) bytes) :=
      (onReader_free hs hbusy).trans (onStream_eq_finish hs _)
    rw [hruns] at hsafe ⊢
    cases hx : prChunk (s.ctx sid st) bytes with
    | ok p =>
      rw [hx] at hsafe
      exact .inl ⟨_, rfl, hsafe.1⟩
    | error e =>
      rw [hx] at hsafe
      obtain rfl : e = .outOf64Bits := hsafe
      refine .inr ⟨fun hmode => ?_, rfl⟩
      have hj : st.job = none := by simp_all [Stream.inJob]
      obtain ⟨hstill, hclocked⟩ := (soundView_of_inv h hs).of_idle hj
      exact prChunk_fits64 (v := s.ctx sid st) bytes hmode hstill hclocked hx

/-- A chunk and a packet header are both bytes that arrive at the parser (R91, R111). -/
theorem exec_arrives (hs : s.streams[sid]? = some st) {type seq size : Half} {ts : Tick} {i : Instr}
    (hi : i ∈ [Instr.prChunk sid bytes, .pktSof sid seq size ts, .pktEof sid seq size ts, .pktData sid type seq size ts]) :
    ∃ bs, exec i s = chunkAt sid bs s := by
  simp only [List.mem_cons, List.not_mem_nil, or_false] at hi
  rcases hi with rfl | rfl | rfl | rfl
  · exact ⟨bytes, rfl⟩
  · exact ⟨_, headerAt_eq (fun st => st.conf.typeSof) seq size ts hs⟩
  · exact ⟨_, headerAt_eq (fun st => st.conf.typeEof) seq size ts hs⟩
  · exact ⟨_, headerAt_eq (fun _ => type) seq size ts hs⟩

end Arrival

end Sys2Proof.Machine

namespace Sys2Proof.Settled

open Machine

/-- Settles O39: a chunk keeps the state sound, and only a conversion by the device clock meets the width bound. -/
theorem prChunkRuns : Obligations.PrChunkRuns := by
  intro s sid st bytes type seq size ts hinv hs i hi
  obtain ⟨bs, hexec⟩ := exec_arrives hs hi
  rw [hexec]
  obtain hnext | ⟨hdevice, hfault⟩ := chunkAt_runs (bytes := bs) hinv hs
  · exact ⟨fun _ => hnext, fun _ => .inl hnext⟩
  · exact ⟨fun hmode => absurd hmode hdevice, fun _ => .inr hfault⟩

end Sys2Proof.Settled
end

section
/-! PROOFS. The host operations of the packet reassembler, written out (R162, R163, R164): a legal call and a refused one. -/

namespace Sys2Proof.Machine

/-- A stream that `PR.ARM` has started (R163). -/
def Stream.afterArm (st : Stream) : Stream :=
  { st.frameless with
    pstate := if st.conf.ignoreBytes = 0 then .seekingMagic else .ignoringGarbage
    ignLeft := st.conf.ignoreBytes, magicHalf := false, hdrCnt := 0, hdr := [], dataLeft := 0, dataOff := 0
    lastSeq := 0, frameId := 0, pktTime := 0, syFirst := true }

/-- A stream that `PR.STOP` has torn down (R164). -/
def Stream.afterStop (st : Stream) : Stream :=
  { st.frameless with
    pstate := .awaitingConfiguration, ignLeft := 0, magicHalf := false, hdrCnt := 0, hdr := [], dataLeft := 0
    dataOff := 0, syFirst := true }

section Host

variable {s : State} {sid : Nat} {st : Stream}

/-- A host operation that leaves the record `st'`: it runs under the stream's lock and gives it back (R75, R10). -/
theorem onHost_put {i : Instr} {a : Agent} {f : RdCtx → Except Fault (Ret × RdCtx)} {r : Ret} {st' : Stream} {io : Io}
    (hs : s.streams[sid]? = some st) (hl : st.lock = none) (hl' : st'.lock = none)
    (hf : f ((s.ctx sid st).lock a) = .ok (r, { s.ctx sid st with st := { st' with lock := some a }, io := io })) :
    s.onHost i true a sid f = .next (s.put sid st' (io.puts [.result a r]) r) := by
  have hfreed : { st' with lock := none } = st' := by rw [← hl']
  rw [onHost_ok hs hl hf]
  show Host.Outcome.next (s.put sid { st' with lock := none } (io.puts [.result a r]) r) = _
  rw [hfreed]

/-- A host operation that is refused leaves the stream as it was (R288). -/
theorem onHost_refuses {i : Instr} {a : Agent} {f : RdCtx → Except Fault (Ret × RdCtx)}
    (hs : s.streams[sid]? = some st) (hl : st.lock = none)
    (hf : f ((s.ctx sid st).lock a) = .ok (.refused, (s.ctx sid st).lock a)) :
    s.onHost i true a sid f = .next (s.put sid st (s.io.puts [.result a .refused]) .refused) :=
  onHost_put hs hl hl hf

/-- When `PR.CONFIGURE` takes a record (R162). -/
theorem configures_iff (cfg : Cfg) (p : PState) (c : StreamConfig) :
    (decide (p = .awaitingConfiguration) && configLegal cfg c) = true ↔
      p = .awaitingConfiguration ∧ c.typeSof ≠ c.typeEof ∧ c.codec ≠ .xform ∧
        1 ≤ c.pixBytes.toNat ∧ c.pixBytes.toNat ≤ 4 ∧ c.outCap.toNat ≤ cfg.outCapMax ∧
        (c.cropEn = false ∨
          (c.cropX.toNat + c.cropW.toNat ≤ c.xRes.toNat ∧ c.cropY.toNat + c.cropH.toNat ≤ c.yRes.toNat)) := by
  simp only [configLegal, Bool.and_eq_true, Bool.or_eq_true, Bool.not_eq_true', decide_eq_true_eq, and_assoc]

/-- When `PR.ARM` starts a stream (R163). -/
theorem armLegal_iff (b : Bool) (st : Stream) : armLegal b st = true ↔
    st.pstate = .awaitingConfiguration ∧ b = true ∧ st.cfgValid = true ∧
      (st.conf.codec = .pass ∨ st.conf.lutEn = false ∨ st.calValid = true) := by
  simp only [armLegal, Bool.and_eq_true, Bool.or_eq_true, Bool.not_eq_true', decide_eq_true_eq, and_assoc, or_assoc]

end Host

end Sys2Proof.Machine

namespace Sys2Proof.Settled

open Machine

/-- Settles O36: the test of the call is the rule's, and either outcome is written out. -/
theorem prConfigure : Obligations.PrConfigure := by
  intro s sid st c hs hl hdomain ok
  have hexec : exec (.prConfigure .host sid c) s =
      s.onHost (.prConfigure .host sid c) true .host sid fun v => .ok (Machine.prConfigure v c) := by
    rw [exec, execPrConfigure, hdomain]
    rfl
  refine ⟨fun h => ?_, fun h => ?_⟩
  · refine hexec.trans (onHost_put hs hl hl ?_)
    exact congrArg Except.ok (if_pos ((configures_iff s.cfg st.pstate c).mpr h))
  · refine hexec.trans (onHost_refuses hs hl ?_)
    exact congrArg Except.ok (if_neg (mt (configures_iff s.cfg st.pstate c).mp h))

/-- Settles O37: an armed stream starts every register over and asks for its first write slot. -/
theorem prArm : Obligations.PrArm := by
  intro s sid st hs hl ok
  have hexec : exec (.prArm .host sid) s =
      s.onHost (.prArm .host sid) true .host sid fun v => .ok (Machine.prArm s.capValid v) := rfl
  refine ⟨fun h => ?_, fun h => ?_⟩
  · have harm : armLegal s.capValid ((s.ctx sid st).lock .host).st = true := (armLegal_iff s.capValid st).mpr h
    have hrun : s.onHost (.prArm .host sid) true .host sid (fun v => .ok (Machine.prArm s.capValid v)) =
        .next (s.put sid st.afterArm ((s.io.puts [.acquire sid]).puts [.result .host .ok]) .ok) :=
      onHost_put hs hl hl (congrArg Except.ok (if_pos harm))
    rw [hexec, hrun, puts_puts]
    rfl
  · have hrefused : ¬ armLegal s.capValid ((s.ctx sid st).lock .host).st = true := mt (armLegal_iff s.capValid st).mp h
    exact hexec.trans (onHost_refuses hs hl (congrArg Except.ok (if_neg hrefused)))

/-- Settles O38: no test stands before `PR.STOP`. -/
theorem prStop : Obligations.PrStop := by
  intro s sid st hs hl
  have hexec : exec (.prStop .host sid) s =
      s.onHost (.prStop .host sid) true .host sid fun v => .ok (.ok, Machine.prStop v) := rfl
  exact hexec.trans (onHost_put (st' := st.afterStop) hs hl hl rfl)

end Sys2Proof.Settled
end

section
/-! PROOFS. The frame actions and the parser's scans as operations on their own, written out (R171 to R173, R178, R180, R181, R183,
R185, R186). -/

namespace Sys2Proof.Machine

section Alone

variable {s : State} {sid : Nat} {st : Stream}

/-- An internal operation of a stream that leaves its record and the ports changed, and nothing that is shared. -/
theorem onStream_put {f : RdCtx → Except Fault (Ret × RdCtx)} {r : Ret} {st' : Stream} {io : Io}
    (hs : s.streams[sid]? = some st) (hf : f (s.ctx sid st) = .ok (r, { s.ctx sid st with st := st', io := io })) :
    s.onStream sid f = .next (s.put sid st' io r) := onStream_ok hs hf

/-- A per-state operation of the parser on what is left of a chunk (R171 to R175). -/
theorem fromPos_put {f : RdCtx → List Byte → Except Fault (Nat × RdCtx)} {bytes : List Byte} {pos k : Nat} {st' : Stream}
    {io : Io} (hs : s.streams[sid]? = some st) (hp : pos < bytes.length)
    (hf : f (s.ctx sid st) (bytes.drop pos) = .ok (k, { s.ctx sid st with st := st', io := io })) :
    fromPos sid bytes pos s f = .next (s.put sid st' io (.pos (pos + k))) := by
  rw [fromPos, if_neg (Nat.not_le.mpr hp)]
  exact onStream_put hs (by rw [hf]; rfl)

/-! ### Each on the view of its stream -/

theorem exec_prFramereset (hs : s.streams[sid]? = some st) :
    exec (.prFramereset sid) s = s.finish (.ok (.none, prFrameReset (s.ctx sid st))) := by
  rw [exec, execPrFramereset, onStream_eq_finish hs]

theorem exec_prOverflow (hs : s.streams[sid]? = some st) :
    exec (.prOverflow sid) s = s.finish (.ok (.none, prOverflow (s.ctx sid st))) := by
  rw [exec, execPrOverflow, onStream_eq_finish hs]

theorem exec_prPad (hs : s.streams[sid]? = some st) (k : Half) :
    exec (.prPad sid k) s = s.finish (.ok (.none, prPad (s.ctx sid st) k.toNat)) := by
  rw [exec, execPrPad, onStream_eq_finish hs]

theorem exec_prPiece (hs : s.streams[sid]? = some st) (d : List Byte) (off : Half) :
    exec (.prPiece sid d off) s = s.finish (prPiece (s.ctx sid st) d >>= fun u => .ok (.none, u)) := by
  rw [exec, execPrPiece, onStream_eq_finish hs]

theorem exec_prPublish (hs : s.streams[sid]? = some st) :
    exec (.prPublish sid) s = s.finish (prPublish (s.ctx sid st) >>= fun u => .ok (.none, u)) := by
  rw [exec, execPrPublish, onStream_eq_finish hs]

theorem exec_prEof (hs : s.streams[sid]? = some st) :
    exec (.prEof sid) s = s.finish (prEof (s.ctx sid st) >>= fun u => .ok (.none, u)) := by
  rw [exec, execPrEof, onStream_eq_finish hs]

theorem exec_prPktend (hs : s.streams[sid]? = some st) :
    exec (.prPktend sid) s = s.finish (prPktend (s.ctx sid st) >>= fun u => .ok (.none, u)) := by
  rw [exec, execPrPktend, onStream_eq_finish hs]

theorem exec_bdFeed (hs : s.streams[sid]? = some st) {w n : Nat} (he : elemSpec s.cfg st.conf.codec = some (w, n))
    (d : List Byte) :
    exec (.bdFeed sid d) s = s.finish (bdFeed (s.ctx sid st) w n d >>= fun u => .ok (.none, u)) := by
  rw [exec, execBdFeed, hs]
  show (match elemSpec s.cfg st.conf.codec with | none => _ | some (w, n) => _) = _
  rw [he]
  exact onStream_eq_finish hs _

/-! ### The parser's scans -/

/-- A scan of the bytes that are left of a chunk puts nothing out (R171 to R173). -/
theorem scan_put {g : RdCtx → List Byte → Nat × RdCtx} {bytes : List Byte} {pos k p : Nat} {st' : Stream}
    (hs : s.streams[sid]? = some st) (hp : pos < bytes.length) (hend : pos + k = p)
    (hg : g (s.ctx sid st) (bytes.drop pos) = (k, { s.ctx sid st with st := st' })) :
    fromPos sid bytes pos s (fun v rest => .ok (g v rest)) = .next (s.put sid st' s.io (.pos p)) := by
  subst hend
  exact fromPos_put hs hp (congrArg Except.ok hg)

/-- Garbage that the chunk does not end is counted down (R172). -/
theorem prIgnore_part {v : RdCtx} {rest : List Byte} (h : rest.length < v.st.ignLeft.toNat) :
    prIgnore v rest =
      (rest.length, { v with st := { v.st with ignLeft := v.st.ignLeft - BitVec.ofNat 32 rest.length } }) := by
  have hk : min rest.length v.st.ignLeft.toNat = rest.length := by omega
  have hleft : BitVec.ofNat 32 (v.st.ignLeft.toNat - rest.length) = v.st.ignLeft - BitVec.ofNat 32 rest.length := by
    bv_omega
  rw [prIgnore, hk, if_neg (by omega), hleft]

/-- Garbage that ends in the chunk brings the parser to the magic (R172). -/
theorem prIgnore_full {v : RdCtx} {rest : List Byte} (h : v.st.ignLeft.toNat ≤ rest.length) :
    prIgnore v rest = (v.st.ignLeft.toNat, { v with st := { v.st with ignLeft := 0, pstate := .seekingMagic } }) := by
  have hk : min rest.length v.st.ignLeft.toNat = v.st.ignLeft.toNat := by omega
  rw [prIgnore, hk, Nat.sub_self, if_pos rfl]
  rfl

/-- The magic's second half after its first starts a header (R173). -/
theorem prSeek_found {v : RdCtx} {b : Byte} (hm : v.st.magicHalf = true) (hb : b = magicHi v.cap) :
    prSeek v b = (1, { v with st := { v.st with
      hdr := writeCells v.st.hdr 0 (halfBytes v.cap.magicD2H), hdrCnt := 2, magicHalf := false
      pstate := .readingHeader } }) := by
  rw [prSeek, if_pos (by simp [hm, hb])]
  rfl

/-- Any other byte may be the magic's first half (R173). -/
theorem prSeek_missed {v : RdCtx} {b : Byte} (h : v.st.magicHalf = false ∨ b ≠ magicHi v.cap) :
    prSeek v b = (1, { v with st := { v.st with magicHalf := decide (b = magicLo v.cap) } }) := by
  rw [prSeek, if_neg (by simpa [or_iff_not_imp_left] using h), beq_eq_decide]

theorem storesAt_writeCells {α : Type} (m : Cells α) (n : Nat) (vs : List α) : StoresAt m (writeCells m n vs) n vs :=
  fun a => readCell_writeCells vs m n a

/-! ### Frame actions -/

/-- A write that fits, with the cursor moved on (R61). -/
theorem appendOut_moves {v : RdCtx} {bs : List Byte} (h : v.st.outLen.toNat + bs.length ≤ v.st.conf.outCap.toNat) :
    appendOut v bs = { v with st := { v.st with
      out := writeCells v.st.out v.st.outLen.toNat bs, outLen := v.st.outLen + BitVec.ofNat 32 bs.length } } := by
  have hlen : BitVec.ofNat 32 (v.st.outLen.toNat + bs.length) = v.st.outLen + BitVec.ofNat 32 bs.length := by
    rw [BitVec.ofNat_add, BitVec.ofNat_toNat, BitVec.setWidth_eq]
  rw [appendOut_fits h, hlen]

/-- A write that does not fit is `PR.OVERFLOW` (R61, R186). -/
theorem appendOut_overflowed {v : RdCtx} {bs : List Byte} (h : v.st.conf.outCap.toNat < v.st.outLen.toNat + bs.length) :
    appendOut v bs = prOverflow v := by
  rw [appendOut, if_pos h]

/-- A piece for a codec that packs samples is fed to it (R183). -/
theorem prPiece_packs {v : RdCtx} {w n : Nat} {d : List Byte} (hd : v.st.drop = false)
    (he : elemSpec v.cfg v.st.conf.codec = some (w, n)) : prPiece v d = bdFeed v w n d := by
  rw [prPiece, if_neg (by simp [hd])]
  cases hcodec : v.st.conf.codec with
  | pass => rw [hcodec] at he; cases he
  | unpack11 => rw [hcodec] at he; cases he; rfl
  | unpack12 => rw [hcodec] at he; cases he; rfl
  | xform => rw [hcodec] at he; cases he

/-- Padding is a write of filler samples, where there is any and the frame does not drop (R185). -/
theorem prPad_writes {v : RdCtx} {k : Nat} (hd : v.st.drop = false) (hk : k ≠ 0) :
    prPad v k = appendOut v (fillerBytes v.cfg (sampleBytes v.cfg v.st.conf) k) := by
  rw [prPad, if_neg (by simp [hd, hk])]
  rfl

theorem prPad_nothing {v : RdCtx} {k : Nat} (h : v.st.drop = true ∨ k = 0) : prPad v k = v :=
  if_pos (by simpa using h)

/-- Leading padding that does not fit (R180, R185, R186). -/
theorem prSof_overflows {v : RdCtx} (h : Header) (hp : v.cap.sofTsPad = true)
    (hover : v.st.conf.outCap.toNat < (leadPad h.ts).toNat * sampleBytes v.cfg v.st.conf) :
    prSof v h = prOverflow { v with st := { v.st.frameless with trailPad := trailPadOf h.ts } } := by
  let u : RdCtx := { v with st := { v.st.frameless with trailPad := trailPadOf h.ts } }
  have hk : (leadPad h.ts).toNat ≠ 0 := fun hz => by simp [hz] at hover
  calc prSof v h = prPad u (leadPad h.ts).toNat := if_pos hp
    _ = appendOut u _ := prPad_writes (v := u) rfl hk
    _ = prOverflow u := appendOut_overflowed (by
        rw [fillerBytes_length]
        exact Nat.lt_of_lt_of_le hover (Nat.le_add_left _ _))

/-- The sequence check's outcome and event (R178). -/
theorem prLosschk_eq (v : RdCtx) (h : Header) : prLosschk v h =
    (lossOf (nextSeq v.cfg v.st.lastSeq) h.seq, { v with
      st := { v.st with lastSeq := h.seq }
      io := v.io.puts (lossEvents v.sid (nextSeq v.cfg v.st.lastSeq) h.seq) }) := by
  cases hl : lossOf (nextSeq v.cfg v.st.lastSeq) h.seq <;>
    simp [prLosschk, lossEvents, hl, RdCtx.raise, raise_eq_puts]

/-- `PR.LOSSCHK` on its own (R178). -/
theorem exec_prLosschk (hs : s.streams[sid]? = some st) {h : Header} (hh : readHeader st.hdr = .ok h) :
    exec (.prLosschk sid) s = .next (s.put sid { st with lastSeq := h.seq }
      (s.io.puts (lossEvents sid (nextSeq s.cfg st.lastSeq) h.seq))
      (.flag (lossOf (nextSeq s.cfg st.lastSeq) h.seq))) := by
  rw [exec, execPrLosschk]
  refine onStream_put hs ?_
  show (readHeader st.hdr >>= fun h => Except.ok (Ret.flag (prLosschk (s.ctx sid st) h).1, (prLosschk (s.ctx sid st) h).2)) = _
  rw [hh]
  exact congrArg (fun p => Except.ok (Ret.flag p.1, p.2)) (prLosschk_eq (s.ctx sid st) h)

/-- `PR.SOF` on its own, where the header has padding (R180). -/
theorem exec_prSof (hs : s.streams[sid]? = some st) {h : Header} (hh : readHeader st.hdr = .ok h)
    (hp : s.cap.sofTsPad = true) :
    exec (.prSof sid) s = s.finish (.ok (.none, prSof (s.ctx sid st) h)) := by
  rw [exec, execPrSof, onStream_eq_finish hs]
  refine congrArg s.finish ?_
  show (if s.cap.sofTsPad then readHeader st.hdr >>= fun h => Except.ok (Ret.none, prSof (s.ctx sid st) h) else _) = _
  rw [if_pos hp, hh]
  rfl

end Alone

end Sys2Proof.Machine

namespace Sys2Proof.Settled

open Machine

/-- Settles O45: the check's test and its event, for an id that signals nothing and for any other. -/
theorem prLosschk : Obligations.PrLosschk := by
  intro s sid st magic type seq size ts hs hhdr next
  have hh : readHeader st.hdr = .ok ⟨magic, type, seq, size, ts⟩ := by rw [hhdr, readHeader_headerBytes]
  have hexec := exec_prLosschk hs hh
  refine ⟨fun h => ?_, fun h0 hnext => ?_⟩
  · have hloss : lossOf (nextSeq s.cfg st.lastSeq) seq = false := by
      rcases h with h0 | hnext
      · simp [lossOf, h0]
      · have hsame : seq = nextSeq s.cfg st.lastSeq := hnext
        simp [lossOf, hsame]
    rw [hexec, lossEvents, hloss, if_neg Bool.false_ne_true, puts_nil]
  · have hloss : lossOf (nextSeq s.cfg st.lastSeq) seq = true :=
      Bool.and_eq_true_iff.mpr ⟨bne_iff_ne.mpr h0, bne_iff_ne.mpr hnext⟩
    rw [hexec, lossEvents, hloss, if_pos rfl]
    rfl

/-- Settles O40: the three scans, each for the bytes that are left. -/
theorem prScan : Obligations.PrScan := by
  intro s sid st bytes pos b hs hb done
  obtain ⟨hpos, hget⟩ := List.getElem?_eq_some_iff.mp hb
  have hlen : (bytes.drop pos).length = bytes.length - pos := List.length_drop
  have hend : pos + (bytes.length - pos) = bytes.length := by omega
  have hhead : (bytes.drop pos).headD 0 = b := by
    rw [List.drop_eq_getElem_cons hpos, hget]
    rfl
  refine ⟨?discard, fun hlt => ?part, fun hle => ?full, fun hm hhi => ?found, fun hmiss => ?missed⟩
  case discard => exact scan_put (g := prDiscard) hs hpos hend (by rw [prDiscard, hlen]; rfl)
  case part =>
    have hscan := prIgnore_part (v := s.ctx sid st) (rest := bytes.drop pos) (by rw [hlen]; exact hlt)
    rw [hlen] at hscan
    exact scan_put (g := prIgnore) hs hpos hend hscan
  case full =>
    have hscan := prIgnore_full (v := s.ctx sid st) (rest := bytes.drop pos) (by rw [hlen]; exact hle)
    exact scan_put (g := prIgnore) hs hpos rfl hscan
  case found =>
    refine ⟨_, storesAt_writeCells st.hdr 0 _, ?_⟩
    exact scan_put (g := fun v rest => prSeek v (rest.headD 0)) hs hpos rfl
      (by rw [hhead]; exact prSeek_found (v := s.ctx sid st) hm hhi)
  case missed =>
    exact scan_put (g := fun v rest => prSeek v (rest.headD 0)) hs hpos rfl
      (by rw [hhead]; exact prSeek_missed (v := s.ctx sid st) hmiss)

/-- Settles O46: a frame starts over, with padding that fits or that overflows. -/
theorem prSof : Obligations.PrSof := by
  intro s sid st hs
  refine ⟨exec_prFramereset hs, exec_prOverflow hs, fun hp => ?_, ?_⟩
  · rw [exec, execPrSof]
    refine onStream_put hs ?_
    show (if s.cap.sofTsPad then _ else _) = _
    rw [if_neg (by simp [hp])]
    rfl
  · intro magic type seq size ts hhdr lead opened
    have hh : readHeader st.hdr = .ok ⟨magic, type, seq, size, ts⟩ := by rw [hhdr, readHeader_headerBytes]
    refine ⟨fun hp hfit => ?_, fun hp hover => ?_⟩
    · rw [exec_prSof hs hh hp, prSof_padded (v := s.ctx sid st) ⟨magic, type, seq, size, ts⟩ hp hfit]
      rfl
    · rw [exec_prSof hs hh hp, prSof_overflows (v := s.ctx sid st) ⟨magic, type, seq, size, ts⟩ hp hover]
      rfl

/-- Settles O48: a piece is dropped, written all or nothing, or fed to the codec. -/
theorem prPiece : Obligations.PrPiece := by
  intro s sid st d off hs
  refine ⟨fun hd => ?_, fun hd hcodec => ?_, fun hd hcodec => ?_⟩
  · have hdropped : Machine.prPiece (s.ctx sid st) d = .ok (s.ctx sid st) := if_pos hd
    rw [exec_prPiece hs, hdropped]
    rfl
  · have hpass : Machine.prPiece (s.ctx sid st) d = .ok (appendOut (s.ctx sid st) d) := by
      rw [Machine.prPiece, if_neg (by simp [hd]), show (s.ctx sid st).st.conf.codec = .pass from hcodec]
    rw [exec_prPiece hs, hpass]
    refine ⟨fun hfit => ⟨_, storesAt_writeCells st.out _ d, ?_⟩, fun hover => ?_⟩
    · rw [appendOut_moves (v := s.ctx sid st) hfit]
      rfl
    · rw [appendOut_overflowed (v := s.ctx sid st) hover]
      rfl
  · obtain ⟨w, n, he⟩ : ∃ w n, elemSpec s.cfg st.conf.codec = some (w, n) := by
      rcases hcodec with hcodec | hcodec <;> rw [hcodec] <;> exact ⟨_, _, rfl⟩
    rw [exec_prPiece hs, exec_bdFeed hs he, prPiece_packs (v := s.ctx sid st) hd he]

/-- Settles O49: padding is nothing, or a write of filler samples that fits or overflows. -/
theorem prPad : Obligations.PrPad := by
  intro s sid st k hs n filler m
  have hlen : filler.length = m := fillerBytes_length s.cfg n k.toNat
  have hsome (hk : k ≠ 0) : k.toNat ≠ 0 := fun hz => hk (BitVec.eq_of_toNat_eq hz)
  refine ⟨storedSample_length _ _, storedSample_fits, fun h => ?_, fun hd hk hfit => ?_, fun hd hk hover => ?_⟩
  · rw [exec_prPad hs, prPad_nothing (v := s.ctx sid st) (h.imp_right fun hk => by rw [hk]; rfl)]
    rfl
  all_goals have hwrites : Machine.prPad (s.ctx sid st) k.toNat = appendOut (s.ctx sid st) filler :=
    prPad_writes (v := s.ctx sid st) hd (hsome hk)
  · refine ⟨_, storesAt_writeCells st.out _ filler, ?_⟩
    rw [exec_prPad hs, hwrites, appendOut_moves (v := s.ctx sid st) (by rw [hlen]; exact hfit), hlen]
    rfl
  · rw [exec_prPad hs, hwrites, appendOut_overflowed (v := s.ctx sid st) (by rw [hlen]; exact hover)]
    rfl

end Sys2Proof.Settled
end

section
/-! PROOFS. The end of a frame and of a packet's payload, written out (R175, R176, R184, R187). -/

namespace Sys2Proof.Machine

/-! ### One operation of a stream after another -/

section After

variable {s : State} {sid : Nat} {st : Stream} {v : RdCtx}

/-- An operation on the state that another operation of its stream has left: it goes on with the view as it was left. -/
theorem exec_leaves {i : Instr} {F : RdCtx → Except Fault (Ret × RdCtx)} (hs : s.streams[sid]? = some st)
    (hv : Onward (s.ctx sid st) v) (r : Ret)
    (hi : ∀ t : State, t.streams[sid]? = some v.st → exec i t = t.finish (F (t.ctx sid v.st)))
    (hF : Yields (F v) fun p => p.2.sid = v.sid) : exec i (s.leaves r v) = s.finish (F v) := by
  have hsid : v.sid = sid := hv.sid
  have hview : (s.leaves r v).ctx sid v.st = v := by
    rw [← hsid]
    exact leaves_ctx hv.cfg hv.cap r
  rw [hi _ (leaves_stream hs hsid r), hview, finish_leaves r hF]

/-- An operation followed by more is one operation, where each of its values is followed so (R13). -/
theorem andThen_finish {α : Type} (x : Except Fault α) (f : α → Except Fault (Ret × RdCtx)) (next : State → Outcome)
    (g : α → Except Fault (Ret × RdCtx)) (h : ∀ a, x = .ok a → andThen (s.finish (f a)) next = s.finish (g a)) :
    andThen (s.finish (x >>= f)) next = s.finish (x >>= g) := by
  cases x with
  | error e => rfl
  | ok a => exact h a rfl

end After

/-! ### The end of a frame -/

/-- What `PR.PUBLISH` puts out of a frame of the given bytes (R187, R296). -/
def publication (sid : Nat) (st : Stream) (data : List Byte) : List Output :=
  [.commit sid ⟨st.frameId, st.pktTime, BitVec.ofNat 32 data.length, data, st.corrupt, st.lossMark, st.lossFirst,
    st.lossLast⟩, .fps sid st.frameId st.pktTime, .acquire sid]

/-- The frame holds `data` (R44 (d), R61). -/
structure FrameHolds (st : Stream) (data : List Byte) : Prop where
  out : st.out = tableCells 0 data
  len : st.outLen.toNat = data.length

/-- A frame is committed with the bytes it holds (R187). -/
theorem prPublish_eq {v : RdCtx} {data : List Byte} (h : FrameHolds v.st data) :
    prPublish v = .ok { v with st := { v.st with out := [] }, io := v.io.puts (publication v.sid v.st data) } := by
  have hlen : v.st.outLen = BitVec.ofNat 32 data.length := by rw [← h.len, BitVec.ofNat_toNat, BitVec.setWidth_eq]
  have hread : readCells .out v.st.out 0 v.st.outLen.toNat = .ok data := by
    rw [h.out, h.len, readCells_tableCells]
  rw [prPublish, hread]
  simp [publication, RdCtx.emit, emit_eq_puts, puts_puts, hlen, Bind.bind, Except.bind]

/-- A frame of `n` bytes is corrupt at its end: it was before, or bytes are left over, or its size is not the one expected
(R184). -/
def corruptAtEnd (cfg : Cfg) (st : Stream) (n : Nat) : Bool :=
  st.corrupt || decide (st.contLen ≠ 0) || decide (n ≠ expectedBytes cfg st.conf)

/-- The event of a corrupt frame (R184). -/
def corruptEvents (sid : Nat) (corrupt : Bool) : List Output := if corrupt then [.event (.frameCorrupted sid)] else []

/-- A stream whose padded frame ends: checked, its event raised, published, its registers at their start (R184). -/
def RdCtx.frameDone (u : RdCtx) (data : List Byte) : RdCtx :=
  let corrupt := corruptAtEnd u.cfg u.st data.length
  { u with
    st := { u.st.frameless with frameId := u.st.frameId + 1 }
    io := u.io.puts (corruptEvents u.sid corrupt ++
      publication u.sid { u.st with frameId := u.st.frameId + 1, corrupt := corrupt } data) }

/-- A padded frame at its end, checked and counted (R184). -/
theorem frameEnd_eq {v u : RdCtx} (hpad : prPad v v.st.trailPad.toNat = u) : v.frameEnd = { u with
    st := { eofChecks u.cfg u.st with frameId := u.st.frameId + 1 }
    io := u.io.puts (corruptEvents u.sid (eofChecks u.cfg u.st).corrupt) } := by
  unfold RdCtx.frameEnd
  rw [hpad]
  dsimp only
  split
  · rename_i hc
    rw [corruptEvents, if_pos hc]
    rfl
  · rename_i hc
    rw [corruptEvents, if_neg hc, puts_nil]
    rfl

/-- The end of a frame, from its trailing padding on (R184, R187). -/
theorem prEof_done {v u : RdCtx} {data : List Byte} (hpad : prPad v v.st.trailPad.toNat = u) (h : FrameHolds u.st data) :
    prEof v = .ok (u.frameDone data) := by
  have hcorrupt : (eofChecks u.cfg u.st).corrupt = corruptAtEnd u.cfg u.st data.length := by
    simp [eofChecks, corruptAtEnd, h.len, bne, beq_eq_decide]
  have hpublish := prPublish_eq (v := v.frameEnd) (data := data) (by rw [frameEnd_eq hpad]; exact ⟨h.out, h.len⟩)
  rw [prEof_eq, hpublish, frameEnd_eq hpad, hcorrupt]
  show Except.ok (prFrameReset { u with
    st := _, io := (u.io.puts _).puts (publication u.sid { eofChecks u.cfg u.st with frameId := _ } data) }) = _
  rw [puts_puts, RdCtx.frameDone, ← hcorrupt]
  rfl

/-- Trailing padding that fits follows the frame's bytes (R184, R185). -/
theorem prPad_follows {v : RdCtx} {data : List Byte} {k : Nat} (h : FrameHolds v.st data) (hd : v.st.drop = false)
    (hfit : k = 0 ∨ data.length + k * sampleBytes v.cfg v.st.conf ≤ v.st.conf.outCap.toNat) :
    prPad v k = { v with st := { v.st with
      out := tableCells 0 (data ++ fillerBytes v.cfg (sampleBytes v.cfg v.st.conf) k)
      outLen := BitVec.ofNat 32 (data.length + k * sampleBytes v.cfg v.st.conf) } } := by
  by_cases hk : k = 0
  · subst hk
    have hlen : v.st.outLen = BitVec.ofNat 32 data.length := by rw [← h.len, BitVec.ofNat_toNat, BitVec.setWidth_eq]
    rw [prPad_nothing (.inr rfl), Nat.zero_mul, Nat.add_zero, ← hlen]
    show v = { v with st := { v.st with out := tableCells 0 (data ++ []) } }
    rw [List.append_nil, ← h.out]
  · have hfill := fillerBytes_length v.cfg (sampleBytes v.cfg v.st.conf) k
    rw [prPad_writes hd hk, appendOut_fits (by rw [h.len, hfill]; exact hfit.resolve_left hk), hfill, h.len, h.out,
      writeCells_tableCells_zero]

theorem FrameHolds.padded {v : RdCtx} {data : List Byte} {k : Nat} (h : FrameHolds v.st data) (hd : v.st.drop = false)
    (hfit : k = 0 ∨ data.length + k * sampleBytes v.cfg v.st.conf ≤ v.st.conf.outCap.toNat) :
    FrameHolds (prPad v k).st (data ++ fillerBytes v.cfg (sampleBytes v.cfg v.st.conf) k) := by
  have hfill := fillerBytes_length v.cfg (sampleBytes v.cfg v.st.conf) k
  have hbound : data.length + k * sampleBytes v.cfg v.st.conf < 2 ^ 32 := by
    rcases hfit with rfl | hfit
    · rw [Nat.zero_mul, Nat.add_zero, ← h.len]
      exact v.st.outLen.isLt
    · exact Nat.lt_of_le_of_lt hfit v.st.conf.outCap.isLt
  rw [prPad_follows h hd hfit]
  refine ⟨rfl, ?_⟩
  rw [List.length_append, hfill]
  show (BitVec.ofNat 32 _).toNat = _
  rw [BitVec.toNat_ofNat, Nat.mod_eq_of_lt hbound]

/-! ### A piece of payload, and a packet's end -/

section Payload

variable {s : State} {sid : Nat} {st : Stream}

/-- `PR.DATA` on the view of its stream (R175). -/
theorem exec_prData (hs : s.streams[sid]? = some st) {bytes : List Byte} {pos : Nat} (hp : pos < bytes.length) :
    exec (.prData sid bytes pos) s =
      s.finish (prData (s.ctx sid st) (bytes.drop pos) >>= fun p => .ok (.pos (pos + p.1), p.2)) := by
  rw [exec, execPrData, fromPos, if_neg (Nat.not_le.mpr hp), onStream_eq_finish hs]

/-- What is taken of a payload, as its counts have it (R175). -/
theorem taken_eq (k : Nat) (u : RdCtx) : u.taken k = { u with st := { u.st with
    dataOff := u.st.dataOff + BitVec.ofNat 16 k, dataLeft := BitVec.ofNat 16 (u.st.dataLeft.toNat - k) } } := by
  rw [RdCtx.taken, BitVec.ofNat_add, BitVec.ofNat_toNat, BitVec.setWidth_eq]
  rfl

theorem ofNat_toNat_sub {x : Half} {k : Nat} (h : k ≤ x.toNat) : BitVec.ofNat 16 (x.toNat - k) = x - BitVec.ofNat 16 k := by
  bv_omega

/-- `PR.PKTEND` of a whole header: `PR.EOF` first where the packet ends a frame (R176). -/
theorem prPktend_eq {v : RdCtx} {h : Header} (hh : readHeader v.st.hdr = .ok h) : prPktend v =
    if h.type = v.st.conf.typeEof then (prEof v).map fun u => { u with st := u.st.seeking }
    else .ok { v with st := v.st.seeking } := by
  rw [prPktend, hh]
  show packetEnd v h = _
  unfold packetEnd isEof
  by_cases ht : h.type = v.st.conf.typeEof
  · rw [if_pos (by simp [ht]), if_pos ht]
    cases prEof v <;> rfl
  · rw [if_neg (by simp [ht]), if_neg ht]
    rfl

/-- A piece that does not end its packet (R175). -/
theorem exec_prData_part (hs : s.streams[sid]? = some st) {bytes : List Byte} {pos : Nat} {u : RdCtx}
    (hp : pos < bytes.length) (hl : bytes.length - pos < st.dataLeft.toNat)
    (hu : prPiece (s.ctx sid st) (bytes.drop pos) = .ok u) :
    exec (.prData sid bytes pos) s = s.finish (.ok (.pos bytes.length, { u with st := { u.st with
      dataOff := st.dataOff + BitVec.ofNat 16 (bytes.length - pos)
      dataLeft := st.dataLeft - BitVec.ofNat 16 (bytes.length - pos) } })) := by
  obtain ⟨hoff, hleft⟩ : u.st.dataOff = st.dataOff ∧ u.st.dataLeft = st.dataLeft := (prPiece_frames _ _ u hu).meters
  have hlen : (bytes.drop pos).length = bytes.length - pos := List.length_drop
  have hk : min (bytes.drop pos).length (s.ctx sid st).st.dataLeft.toNat = bytes.length - pos := by
    rw [hlen]
    exact Nat.min_eq_left hl.le
  have hgo : payloadEnd (bytes.length - pos) u = .ok (u.taken (bytes.length - pos)) :=
    if_neg (by rw [hleft]; omega)
  rw [exec_prData hs hp, prData_eq, hk, List.take_of_length_le hlen.le, hu]
  show s.finish ((payloadEnd (bytes.length - pos) u).map _ >>= _) = _
  rw [hgo, taken_eq, hleft, hoff, ofNat_toNat_sub hl.le]
  show s.finish (.ok (.pos (pos + (bytes.length - pos)), _)) = _
  rw [show pos + (bytes.length - pos) = bytes.length by omega]

/-- `PR.DATA` is its piece, the counts, and the packet's end where nothing is left (R175). -/
theorem exec_prData_pieces (hs : s.streams[sid]? = some st) {bytes : List Byte} {pos : Nat} (hp : pos < bytes.length) :
    let k := min (bytes.length - pos) st.dataLeft.toNat
    exec (.prData sid bytes pos) s =
      andThen (exec (.prPiece sid ((bytes.drop pos).take k) st.dataOff) s) fun t =>
        let u := t.edit sid (fun st' => { st' with
          dataOff := st.dataOff + BitVec.ofNat 16 k, dataLeft := st.dataLeft - BitVec.ofNat 16 k }) (.pos (pos + k))
        if st.dataLeft.toNat ≤ bytes.length - pos then
          andThen (exec (.prPktend sid) u) fun w => .next (w.returns (.pos (pos + k)))
        else .next u := by
  intro k
  have hk : min (bytes.drop pos).length (s.ctx sid st).st.dataLeft.toNat = k := by rw [List.length_drop]; rfl
  rw [exec_prData hs hp, prData_eq, hk, bind_assoc, exec_prPiece hs]
  refine (andThen_finish _ _ _ _ fun w hw => ?_).symm
  have honward := prPiece_onward _ _ w hw
  obtain ⟨hoff, hleft⟩ : w.st.dataOff = st.dataOff ∧ w.st.dataLeft = st.dataLeft := (prPiece_frames _ _ w hw).meters
  have htaken : (s.leaves .none w).edit sid (fun st' => { st' with
      dataOff := st.dataOff + BitVec.ofNat 16 k, dataLeft := st.dataLeft - BitVec.ofNat 16 k }) (.pos (pos + k)) =
      s.leaves (.pos (pos + k)) (w.taken k) := by
    rw [← show w.sid = sid from honward.sid, leaves_edit, taken_eq, hleft, hoff, ofNat_toNat_sub (Nat.min_le_right _ _)]
  show (if st.dataLeft.toNat ≤ bytes.length - pos then
    andThen (exec (.prPktend sid) ((s.leaves .none w).edit sid _ (.pos (pos + k)))) _
    else .next ((s.leaves .none w).edit sid _ (.pos (pos + k)))) = _
  rw [htaken, payloadEnd, hleft]
  by_cases hall : st.dataLeft.toNat ≤ bytes.length - pos
  · have hz : st.dataLeft.toNat - k = 0 := by omega
    rw [if_pos hall, if_pos hz, exec_leaves (F := fun v => prPktend v >>= fun u => .ok (.none, u)) (v := w.taken k) hs
      honward.record _ (fun t ht => exec_prPktend ht) ((prPktend_onward _).bind fun x hx => yields_ok hx.sid)]
    cases prPktend (w.taken k) <;> rfl
  · have hz : st.dataLeft.toNat - k ≠ 0 := by omega
    rw [if_neg hall, if_neg hz]
    rfl

end Payload

end Sys2Proof.Machine

namespace Sys2Proof.Settled

open Machine

/-- Settles O50: the padded frame is checked, counted and published, and its registers start over. -/
theorem prEof : Obligations.PrEof := by
  intro s sid st data hs hout hlen publish id ends m bad
  have hf : FrameHolds (s.ctx sid st).st data := ⟨hout, hlen⟩
  have hends {u : RdCtx} {bytes : List Byte} (hpad : Machine.prPad (s.ctx sid st) st.trailPad.toNat = u)
      (h : FrameHolds u.st bytes) : exec (.prEof sid) s = s.finish (.ok (.none, u.frameDone bytes)) := by
    rw [exec_prEof hs, prEof_done hpad h]
    rfl
  refine ⟨?_, fun hd => ?_, fun hd hfit => ?_, fun hd hpad hover => ?_⟩
  · rw [exec_prPublish hs, prPublish_eq hf]
    rfl
  · exact hends (prPad_nothing (.inl hd)) hf
  · have hfit : st.trailPad.toNat = 0 ∨ data.length + m ≤ st.conf.outCap.toNat :=
      hfit.imp_left fun hz => by rw [hz]; rfl
    have hsize : (data ++ fillerBytes s.cfg (sampleBytes s.cfg st.conf) st.trailPad.toNat).length = data.length + m := by
      rw [List.length_append, fillerBytes_length]
    show exec (.prEof sid) s = _
    rw [hends rfl (hf.padded hd hfit), prPad_follows hf hd hfit, ← hsize]
    rfl
  · have hk : st.trailPad.toNat ≠ 0 := fun hz => hpad (BitVec.eq_of_toNat_eq hz)
    have hoverflow : Machine.prPad (s.ctx sid st) st.trailPad.toNat = prOverflow (s.ctx sid st) := by
      rw [prPad_writes (v := s.ctx sid st) hd hk]
      refine appendOut_overflowed ?_
      rw [fillerBytes_length, hf.len]
      exact hover
    refine (hends (bytes := []) hoverflow ⟨rfl, rfl⟩).trans ?_
    show Host.Outcome.next (s.put sid _ ((s.io.puts _).puts _) .none) = _
    rw [puts_puts]
    rfl

/-- Settles O42: a piece is handed on and counted, and the last one ends its packet. -/
theorem prData : Obligations.PrData := by
  intro s sid st hs
  refine ⟨fun bytes pos hp => ?whole, fun magic type seq size ts hhdr => ?ends, fun bytes pos hp hl => ?part⟩
  case whole => exact exec_prData_pieces hs hp
  case ends =>
    have hh : readHeader (s.ctx sid st).st.hdr = .ok ⟨magic, type, seq, size, ts⟩ := by
      show readHeader st.hdr = _
      rw [hhdr, readHeader_headerBytes]
    refine ⟨fun ht => ?_, fun ht => ?_⟩
    · have hend : Machine.prPktend (s.ctx sid st) = .ok { s.ctx sid st with st := st.seeking } :=
        (prPktend_eq hh).trans (if_neg ht)
      rw [exec_prPktend hs, hend]
      rfl
    · have hend : Machine.prPktend (s.ctx sid st) =
          (Machine.prEof (s.ctx sid st)).map fun u => { u with st := u.st.seeking } := (prPktend_eq hh).trans (if_pos ht)
      rw [exec_prPktend hs, hend, exec_prEof hs]
      cases hu : Machine.prEof (s.ctx sid st) with
      | error e => rfl
      | ok u =>
        have hsid : u.sid = sid := (prEof_frames _ u hu).sid
        show _ = Host.Outcome.next ((s.leaves .none u).edit sid _ .none)
        rw [← hsid, leaves_edit]
        rfl
  case part =>
    intro k moved
    have hlen : (bytes.drop pos).length = k := List.length_drop
    refine ⟨fun hd => ?_, fun hd hcodec hfit => ?_⟩
    · exact exec_prData_part hs hp hl (if_pos hd)
    · have hpass : Machine.prPiece (s.ctx sid st) (bytes.drop pos) = .ok (appendOut (s.ctx sid st) (bytes.drop pos)) := by
        rw [Machine.prPiece, if_neg (by simp [hd]), show (s.ctx sid st).st.conf.codec = .pass from hcodec]
      rw [appendOut_moves (v := s.ctx sid st) (by rw [hlen]; exact hfit), hlen] at hpass
      exact ⟨_, storesAt_writeCells st.out _ _, exec_prData_part hs hp hl hpass⟩

end Sys2Proof.Settled
end

section
/-! PROOFS. The start of a packet and its time as operations on their own (R177, R178, R180, R182), and the header that brings them
about (R174). -/

namespace Sys2Proof.Machine

section Parts

variable {s : State} {sid : Nat} {st : Stream}

/-! ### The time of a packet -/

/-- An operation of the parser that may wait, on the view of its stream (R18, R281). -/
theorem onReader_idle {i : Instr} {f : RdCtx → Except Fault (Ret × RdCtx)} (hs : s.streams[sid]? = some st)
    (hj : st.job = none) : s.onReader i sid Stream.inJob f = s.finish (f (s.ctx sid st)) := by
  rw [onReader_free hs (by simp [Stream.inJob, hj]), onStream_eq_finish hs]

theorem exec_prTime (hs : s.streams[sid]? = some st) (hj : st.job = none) {h : Header}
    (hh : readHeader st.hdr = .ok h) :
    exec (.prTime sid) s = s.finish (prTime (s.ctx sid st) h >>= fun r => .ok (parserSettle .packet .none r)) := by
  rw [exec, execPrTime, onReader_idle hs hj]
  show s.finish (readHeader st.hdr >>= _) = _
  rw [hh]
  rfl

theorem exec_prPktstart (hs : s.streams[sid]? = some st) (hj : st.job = none) {h : Header}
    (hh : readHeader st.hdr = .ok h) :
    exec (.prPktstart sid) s =
      s.finish (packetStart (s.ctx sid st) h >>= fun r => .ok (parserSettle .packet .none r)) := by
  rw [exec, execPrPktstart, onReader_idle hs hj]
  show s.finish (prPktstart (s.ctx sid st) >>= _) = _
  rw [prPktstart, show readHeader (s.ctx sid st).st.hdr = .ok h from hh]
  rfl

/-- The conversion of a packet's time as an operation of its reader agent (R182). -/
theorem exec_timeOp (hs : s.streams[sid]? = some st) (hj : st.job = none) (h : Header) :
    exec (match st.conf.tsMode with | .device => .csTohost (.rd sid) sid h.ts | .hostOnly => .csHostonly (.rd sid) sid) s =
      s.finish (settled (timeOp s.cfg st h) (some (.rd sid)) (csBegin (timeOp s.cfg st h) (s.ctx sid st))) := by
  unfold timeOp
  cases st.conf.tsMode with
  | device => exact exec_csTohost hs hj h.ts
  | hostOnly => exact exec_csHostonly hs hj

/-- The view of stream `sid` with another record, other ports, another reference and another holder of `CLK_LOCK`. -/
def State.ctxOf (s : State) (sid : Nat) (ref : ClockRef) (clk : Option Agent) (st : Stream) (io : Io) : RdCtx :=
  { s.ctx sid st with ref := ref, clkLock := clk, io := io }

/-- A conversion that answers that it waits, waits (R18). -/
theorem wait_of_finish {t : State} {op : TimeOp} {a : Agent} {x : Except Fault (Run Micros)}
    (h : s.finish (settled op (some a) x) = .next t) (ht : t.ret = .waiting) :
    ∃ w v, x = .ok (.wait w v) ∧ t = s.leaves .waiting (v.park w (.asked (some a))) := by
  cases x with
  | error e => cases h
  | ok r =>
    cases r with
    | wait w v => exact ⟨w, v, rfl, (Host.Outcome.next.inj h).symm⟩
    | done us v =>
      have h' : s.leaves (op.value us) (v.emit (.result a (op.value us))) = t := Host.Outcome.next.inj h
      subst h'
      have hval : op.value us = .waiting := ht
      cases op <;> cases hval

/-- Who a conversion in flight goes on for does not tell where it waits (R18). -/
theorem park_inj {v u : RdCtx} {w w' : TimeWait} {user : TimeUser} (h : v.park w user = u.park w' user) (other : TimeUser) :
    v.park w other = u.park w' other := by
  have hjob : some (Job.mk w user) = some (Job.mk w' user) := congrArg (fun x => x.st.job) h
  obtain rfl : w = w' := congrArg Job.wait (Option.some.inj hjob)
  show (v.park w user).park w other = (u.park w user).park w other
  rw [h]

/-- A conversion whose operation faults has faulted. -/
theorem error_of_finish {op : TimeOp} {a : Option Agent} {x : Except Fault (Run Micros)} {e : Fault}
    (h : s.finish (settled op a x) = .fault e) : x = .error e := by
  cases x with
  | error e' => exact congrArg Except.error (Host.Outcome.fault.inj h)
  | ok r => cases h

end Parts

end Sys2Proof.Machine

namespace Sys2Proof.Settled

open Machine

/-- Settles O47: the parser's conversion is the agent's, settled otherwise. -/
theorem prTime : Obligations.PrTime := by
  intro s sid st magic type seq size ts hs hhdr hj convert with'
  have hh : readHeader st.hdr = .ok ⟨magic, type, seq, size, ts⟩ := by rw [hhdr, readHeader_headerBytes]
  let h : Header := ⟨magic, type, seq, size, ts⟩
  have hconvert : exec convert s =
      s.finish (settled (timeOp s.cfg st h) (some (.rd sid)) (csBegin (timeOp s.cfg st h) (s.ctx sid st))) :=
    exec_timeOp hs hj h
  have htime := exec_prTime hs hj hh
  have hconv := csBegin_converts (timeOp s.cfg st h) (s.ctx sid st)
  have htime {x : Except Fault (Run Micros)} (hx : csBegin (timeOp s.cfg st h) (s.ctx sid st) = x) :
      exec (.prTime sid) s = s.finish ((x >>= fun r => r.bind fun us v => .ok (.done () (prTimed v h us))) >>=
        fun r => .ok (parserSettle .packet .none r)) := by
    rw [← hx]
    exact exec_prTime hs hj hh
  rw [hconvert]
  refine ⟨fun ref clk st' io us hx => ?_, fun ref clk st' io w hx => ?_, fun e hx => ?_, ?_⟩
  · obtain ⟨v, hv, hleaves⟩ := done_of_finish hx rfl
    let u : RdCtx := s.ctxOf sid ref clk st' io
    have hc : Converts (s.ctx sid st) v := hconv _ hv
    obtain rfl : v = u := emit_inj (leaves_inj (u := u.emit _) hs hc.sid rfl hc.cfg hc.cap hleaves.symm)
    exact htime hv
  · obtain ⟨w', v, hv, hleaves⟩ := wait_of_finish hx rfl
    let u : RdCtx := s.ctxOf sid ref clk st' io
    have hc : Converts (s.ctx sid st) v := hconv _ hv
    have hpark : v.park w' (.asked (some (.rd sid))) = u.park w (.asked (some (.rd sid))) :=
      leaves_inj (r' := .waiting) hs hc.sid rfl hc.cfg hc.cap hleaves.symm
    refine (htime hv).trans ?_
    show Host.Outcome.next (s.leaves .waiting (v.park w' (.parser .packet))) = _
    rw [park_inj hpark]
    rfl
  · exact htime (error_of_finish hx)
  · intro now io hmode hr hle hn us
    rw [exec_prTime hs hj hh, prTime_elapsed (v := s.ctx sid st) _ hmode hr hle hn]
    rfl

end Sys2Proof.Settled
end

section
/-! PROOFS. The start of a packet as the operations it is made of (R177 to R180, R182), and the header whose last byte brings it
about (R174, R176). -/

namespace Sys2Proof.Machine

section Start

variable {s : State} {sid : Nat} {st : Stream} {h : Header}

/-- The view of a packet that is checked, with the frame it may start opened (R177, R180). -/
def RdCtx.opened (v : RdCtx) (h : Header) : RdCtx := if isSof v.st h then prSof (v.checked h) h else v.checked h

theorem packetBegun_opened (v : RdCtx) (h : Header) : v.packetBegun h = { v.opened h with
    st := lossFlags (v.opened h).st (isSof v.st h) (lossOf (nextSeq v.cfg v.st.lastSeq) h.seq) } := by
  simp only [RdCtx.packetBegun, prLosschk_checked]
  rfl

theorem checked_onward (v : RdCtx) (h : Header) : Onward v (v.checked h) := by
  have hchecked : (prLosschk (v.emit (.diagPacket v.sid h.type h.seq h.size h.ts)) h).2 = v.checked h :=
    congrArg Prod.snd (prLosschk_checked v h)
  rw [← hchecked]
  exact ((Onward.refl v).emit _).trans (prLosschk_onward _ h)

theorem opened_onward (v : RdCtx) (h : Header) : Onward v (v.opened h) := by
  unfold RdCtx.opened
  split
  · exact (checked_onward v h).trans (prSof_onward _ h)
  · exact checked_onward v h

theorem packetBegun_onward (v : RdCtx) (h : Header) : Onward v (v.packetBegun h) := by
  rw [packetBegun_opened]
  exact (opened_onward v h).record

/-- `PR.SOF` on its own at a whole header, with or without padding (R180). -/
theorem exec_prSof_read (hs : s.streams[sid]? = some st) (hh : readHeader st.hdr = .ok h) :
    exec (.prSof sid) s = s.finish (.ok (.none, prSof (s.ctx sid st) h)) := by
  cases hp : s.cap.sofTsPad with
  | true => exact exec_prSof hs hh hp
  | false =>
    rw [exec, execPrSof, onStream_eq_finish hs]
    refine congrArg s.finish ?_
    show (if s.cap.sofTsPad then _ else Except.ok (Ret.none, prFrameReset (s.ctx sid st))) = _
    rw [if_neg (by simp [hp]), prSof_unpadded (v := s.ctx sid st) h hp]
    rfl

/-- `PR.LOSSCHK` of a packet that has been reported (R177, R178). -/
theorem exec_prLosschk_reported (hs : s.streams[sid]? = some st) (hh : readHeader st.hdr = .ok h) :
    exec (.prLosschk sid) { s with io := s.io.puts [.diagPacket sid h.type h.seq h.size h.ts] } =
      .next (s.leaves (.flag (lossOf (nextSeq s.cfg st.lastSeq) h.seq)) ((s.ctx sid st).checked h)) := by
  rw [exec_prLosschk (s := { s with io := s.io.puts [.diagPacket sid h.type h.seq h.size h.ts] }) hs hh, puts_puts]
  rfl

/-- A packet that starts a frame opens it, any other leaves it (R177). -/
theorem exec_opens (hs : s.streams[sid]? = some st) (hh : readHeader st.hdr = .ok h) (r : Ret) :
    ∃ r', (if isSof st h then exec (.prSof sid) (s.leaves r ((s.ctx sid st).checked h))
      else .next (s.leaves r ((s.ctx sid st).checked h))) = .next (s.leaves r' ((s.ctx sid st).opened h)) := by
  cases hsof : isSof st h with
  | false =>
    have hview : (s.ctx sid st).opened h = (s.ctx sid st).checked h := if_neg (by simp [hsof])
    exact ⟨r, by rw [hview]; rfl⟩
  | true =>
    have hview : (s.ctx sid st).opened h = prSof ((s.ctx sid st).checked h) h := if_pos hsof
    refine ⟨.none, ?_⟩
    rw [hview, if_pos rfl, exec_leaves (F := fun v => .ok (.none, prSof v h)) hs (checked_onward _ h) r
      (fun t ht => exec_prSof_read ht hh) (yields_ok (prSof_onward _ h).sid)]
    rfl

/-- A part of the parser that may wait is still of its stream. -/
theorem parserSettle_sid {v : RdCtx} {x : Except Fault (Run Unit)} (u : PacketUser) (r : Ret)
    (h : Yields x fun r => Onward v r.ctx) : Yields (x >>= fun q => .ok (parserSettle u r q)) fun p => p.2.sid = v.sid := by
  refine h.bind fun q hq => yields_ok ?_
  cases q <;> exact hq.sid

theorem exec_prTime_leaves {v : RdCtx} (hs : s.streams[sid]? = some st) (hj : st.job = none)
    (hv : Onward (s.ctx sid st) v) (hh : readHeader v.st.hdr = .ok h) (r : Ret) :
    exec (.prTime sid) (s.leaves r v) = s.finish (prTime v h >>= fun q => .ok (parserSettle .packet .none q)) :=
  exec_leaves (F := fun v => prTime v h >>= fun q => .ok (parserSettle .packet .none q)) hs hv r
    (fun _ ht => exec_prTime ht (hv.job.trans hj) hh) (parserSettle_sid _ _ (prTime_onward v h))

theorem exec_prPktstart_leaves {v : RdCtx} (hs : s.streams[sid]? = some st) (hj : st.job = none)
    (hv : Onward (s.ctx sid st) v) (hh : readHeader v.st.hdr = .ok h) (r : Ret) :
    exec (.prPktstart sid) (s.leaves r v) =
      s.finish (packetStart v h >>= fun q => .ok (parserSettle .packet .none q)) :=
  exec_leaves (F := fun v => packetStart v h >>= fun q => .ok (parserSettle .packet .none q)) hs hv r
    (fun _ ht => exec_prPktstart ht (hv.job.trans hj) hh) (parserSettle_sid _ _ (packetStart_onward v h))

/-- A packet's start is its report, its loss check, the frame it may start, its loss flags and its time (R177, R179). -/
theorem exec_prPktstart_parts (hs : s.streams[sid]? = some st) (hj : st.job = none) (hh : readHeader st.hdr = .ok h) :
    exec (.prPktstart sid) s =
      andThen (exec (.prLosschk sid) { s with io := s.io.puts [.diagPacket sid h.type h.seq h.size h.ts] }) fun s1 =>
        andThen (if isSof st h then exec (.prSof sid) s1 else .next s1) fun s2 =>
          let s3 := s2.edit sid (fun r => lossFlags r (isSof st h) (lossOf (nextSeq s.cfg st.lastSeq) h.seq)) .none
          if isSof st h && s.cap.sofTsPad then .next s3 else exec (.prTime sid) s3 := by
  let v := s.ctx sid st
  obtain ⟨r, hopens⟩ := exec_opens hs hh (.flag (lossOf (nextSeq s.cfg st.lastSeq) h.seq))
  have hsid : (v.opened h).sid = sid := (opened_onward v h).sid
  have hbegun : (s.leaves r (v.opened h)).edit sid
      (fun r => lossFlags r (isSof st h) (lossOf (nextSeq s.cfg st.lastSeq) h.seq)) .none =
      s.leaves .none (v.packetBegun h) := by
    rw [packetBegun_opened]
    conv_lhs => rw [← hsid]
    exact leaves_edit s r .none (v.opened h) _
  have hread : readHeader (v.packetBegun h).st.hdr = .ok h := by
    rw [(packetBegun_frames v h).hdr]
    exact hh
  rw [exec_prLosschk_reported hs hh]
  show _ = andThen (if isSof st h then exec (.prSof sid) (s.leaves _ (v.checked h)) else _) _
  rw [hopens]
  show _ = if isSof st h && s.cap.sofTsPad then Host.Outcome.next ((s.leaves r (v.opened h)).edit sid _ .none)
    else exec (.prTime sid) ((s.leaves r (v.opened h)).edit sid _ .none)
  rw [hbegun, exec_prPktstart hs hj hh, packetStart_eq, (packetBegun_frames v h).cap]
  show s.finish ((if isSof st h && s.cap.sofTsPad then _ else _) >>= _) = _
  split
  · rfl
  · exact (exec_prTime_leaves hs hj (packetBegun_onward v h) hread .none).symm

/-- A start-of-frame whose padding fits (R177, R180). -/
theorem packetStart_padded {v : RdCtx} (hsof : h.type = v.st.conf.typeSof) (hp : v.cap.sofTsPad = true)
    (hfit : (leadPad h.ts).toNat * sampleBytes v.cfg v.st.conf ≤ v.st.conf.outCap.toNat) :
    let loss := lossOf (nextSeq v.cfg v.st.lastSeq) h.seq
    packetStart v h = .ok (.done () { v.checked h with
      st := lossFlags
        { (v.checked h).st.frameless with
          out := tableCells 0 (fillerBytes v.cfg (sampleBytes v.cfg v.st.conf) (leadPad h.ts).toNat)
          outLen := BitVec.ofNat 32 ((leadPad h.ts).toNat * sampleBytes v.cfg v.st.conf)
          trailPad := trailPadOf h.ts }
        true loss }) := by
  have hbegun := (packetBegun_sof (v := v) (h := h) hsof).trans
    (by rw [prSof_padded (v := v.checked h) h hp hfit])
  rw [packetStart_eq, (packetBegun_frames v h).cap, if_pos (by simp [isSof, hsof, hp]), hbegun]
  rfl

/-- A packet that starts no frame, timed by the host clock alone (R177, R182). -/
theorem packetStart_elapsed {v : RdCtx} {now : Micros} {io : Io} (hsof : h.type ≠ v.st.conf.typeSof)
    (hm : v.st.conf.tsMode = .hostOnly) (hr : v.ref.valid = true) (hle : v.ref.host ≤ v.io.clock.last)
    (hn : hostClock v.io = some (now, io)) :
    packetStart v h = .ok (.done () (prTimed { v.started h with
      io := io.puts (.diagPacket v.sid h.type h.seq h.size h.ts :: lossEvents v.sid (nextSeq v.cfg v.st.lastSeq) h.seq) } h
        (now - v.ref.host))) := by
  rw [packetStart_eq, if_neg (by simp [isSof, hsof]), packetBegun_started hsof]
  exact prTime_elapsed (v := v.started h) h hm hr hle (hostClock_puts_some _ hn)

end Start

/-! ### A header -/

section Header

variable {s : State} {sid : Nat} {st : Stream}

/-- `PR.HDR` on the view of its stream (R174). -/
theorem exec_prHdr (hs : s.streams[sid]? = some st) (hj : st.job = none) {bytes : List Byte} {pos : Nat}
    (hp : pos < bytes.length) :
    exec (.prHdr sid bytes pos) s = s.finish (prHdr (s.ctx sid st) (bytes.drop pos) >>= fun p =>
      .ok (parserSettle (.header (pos + p.1)) (.pos (pos + p.1)) p.2)) := by
  rw [exec, execPrHdr, if_neg (Nat.not_le.mpr hp), onReader_idle hs hj]

theorem prTime_hdr (v : RdCtx) (h : Header) : Yields (prTime v h) fun r => r.ctx.st.hdr = v.st.hdr := by
  refine (csBegin_converts _ v).bind fun r hr => ?_
  cases r with
  | wait w u => exact yields_ok hr.hdr
  | done us u => exact yields_ok hr.hdr

/-- The header stays while its packet starts (R174, R177). -/
theorem packetStart_hdr (v : RdCtx) (h : Header) : Yields (packetStart v h) fun r => r.ctx.st.hdr = v.st.hdr := by
  have hbegun := (packetBegun_frames v h).hdr
  rw [packetStart_eq]
  split
  · exact yields_ok hbegun
  · exact (prTime_hdr _ h).mono fun _ hr => hr.trans hbegun

/-- The end of a header that waits for nothing: its packet's start, then the packet's end where it is empty, or its payload
(R174, R176, R177). -/
theorem finish_headerComplete {v : RdCtx} {h : Header} (hs : s.streams[sid]? = some st) (hj : st.job = none)
    (hv : Onward (s.ctx sid st) v) (hp : v.Prompt) (hh : readHeader v.st.hdr = .ok h) (u : PacketUser) (p : Nat) :
    s.finish (headerComplete v >>= fun r => .ok (parserSettle u (.pos p) r)) =
      andThen (exec (.prPktstart sid) (s.leaves .none v)) fun t =>
        if h.size = 0 then andThen (exec (.prPktend sid) t) fun u => .next (u.returns (.pos p))
        else .next (t.edit sid (fun r => { r with dataLeft := h.size, dataOff := 0, pstate := .readingData }) (.pos p)) := by
  rw [exec_prPktstart_leaves hs hj hv hh, headerComplete, hh]
  show s.finish ((packetStart v h >>= _) >>= _) = _
  cases hr : packetStart v h with
  | error e => rfl
  | ok r =>
    obtain ⟨a, w, rfl, -⟩ := packetStart_ends h hp r hr
    have honward : Onward (s.ctx sid st) w := hv.trans (packetStart_onward v h _ hr)
    have hread : readHeader w.st.hdr = .ok h := by
      rw [show w.st.hdr = v.st.hdr from packetStart_hdr v h _ hr]
      exact hh
    have htail := finish_headerTail (v := w) hs honward.sid honward.cfg honward.cap hread
    show s.finish ((headerTail w h >>= fun x => Except.ok (Run.done () x)) >>= _) =
      if h.size = 0 then andThen (exec (.prPktend sid) (s.leaves .none w)) _ else .next ((s.leaves .none w).edit sid _ _)
    have hreturns : andThen (s.finish (headerTail w h >>= fun x => .ok (.none, x))) (fun t => .next (t.returns (.pos p))) =
        s.finish ((headerTail w h >>= fun x => Except.ok (Run.done () x)) >>= fun r => .ok (parserSettle u (.pos p) r)) := by
      cases headerTail w h <;> rfl
    rw [← hreturns, ← htail]
    split <;> rfl

/-- The bytes a header has got, with those that complete it (R174, R91). -/
theorem gathered_whole {v : RdCtx} {had bs : List Byte} {magic type seq size : Half} {ts : Tick}
    (hhdr : v.st.hdr = tableCells 0 had) (hlen : had.length = v.st.hdrCnt.toNat)
    (hwhole : had ++ bs = headerBytes magic type seq size ts) :
    v.gathered bs = { v with st := { v.st with
      hdr := tableCells 0 (headerBytes magic type seq size ts), hdrCnt := 12 } } := by
  have hcount : v.st.hdrCnt.toNat + bs.length = 12 := by
    rw [← hlen, ← List.length_append, hwhole, headerBytes_length]
  rw [RdCtx.gathered, hcount, hhdr, ← hlen, writeCells_tableCells_zero, hwhole]
  rfl

end Header

end Sys2Proof.Machine

namespace Sys2Proof.Settled

open Machine

/-- Settles O43: the parts of a packet's start in their order, and two starts written out. -/
theorem prPktstart : Obligations.PrPktstart := by
  intro s sid st magic type seq size ts hs hhdr hj next loss sof lossEvent pad
  have hh : readHeader st.hdr = .ok ⟨magic, type, seq, size, ts⟩ := by rw [hhdr, readHeader_headerBytes]
  have hloss : lossOf (nextSeq s.cfg st.lastSeq) seq = loss := by
    simp [lossOf, nextSeq, loss, next, bne, decide_not, beq_eq_decide]
  have hevents : lossEvents sid (nextSeq s.cfg st.lastSeq) seq = lossEvent := by
    rw [lossEvents, hloss]
    rfl
  refine ⟨?parts, fun hsof hpad hfit => ?padded, fun now io hsof hmode hr hle hn => ?timed⟩
  case parts =>
    have hparts := exec_prPktstart_parts hs hj hh
    rw [hloss] at hparts
    exact hparts
  case padded =>
    have hstart := packetStart_padded (v := s.ctx sid st) (h := ⟨magic, type, seq, size, ts⟩) (of_decide_eq_true hsof) hpad
      hfit
    rw [exec_prPktstart hs hj hh, hstart, RdCtx.checked]
    dsimp only [State.ctx]
    rw [hloss, hevents]
    rfl
  case timed =>
    intro time
    have hstart := packetStart_elapsed (v := s.ctx sid st) (h := ⟨magic, type, seq, size, ts⟩) (of_decide_eq_false hsof)
      hmode hr hle hn
    rw [exec_prPktstart hs hj hh, hstart]
    show Host.Outcome.next (s.put sid
      { st with lastSeq := seq, lossMark := st.lossMark || lossOf (nextSeq s.cfg st.lastSeq) seq
                lossLast := lossOf (nextSeq s.cfg st.lastSeq) seq, pktTime := time }
      ((io.puts (_ :: lossEvents sid (nextSeq s.cfg st.lastSeq) seq)).puts [.diagTime sid ts time]) .none) = _
    rw [puts_puts, puts_timed hn, hloss, hevents]
    rfl

/-- Settles O41: a header's bytes are stored, and the twelfth brings about the packet's start. -/
theorem prHdr : Obligations.PrHdr := by
  intro s sid st bytes pos hs hp hcnt hj c
  have hlen : (bytes.drop pos).length = bytes.length - pos := List.length_drop
  refine ⟨fun hshort => ⟨_, storesAt_writeCells st.hdr c _, ?_⟩, ?_⟩
  · have hpart := prHdr_part (v := s.ctx sid st) (rest := bytes.drop pos) (by rw [hlen]; exact hshort)
    rw [exec_prHdr hs hj hp, hpart, hlen]
    show s.finish (.ok (.pos (pos + (bytes.length - pos)), (s.ctx sid st).gathered (bytes.drop pos))) = _
    rw [show pos + (bytes.length - pos) = bytes.length by omega, RdCtx.gathered, hlen]
    rfl
  · intro had magic type seq size ts hu hfull hhdr hhad hwhole full
    obtain ⟨hrest, hgrants, hfree⟩ := hu
    let v : RdCtx := { s.ctx sid st with st := full }
    have hv : (s.ctx sid st).gathered ((bytes.drop pos).take (12 - c)) = v :=
      gathered_whole (v := s.ctx sid st) hhdr hhad hwhole
    have hrun := prHdr_full (v := s.ctx sid st) (rest := bytes.drop pos) (Nat.le_of_lt hcnt) (by rw [hlen]; exact hfull)
    have hread : readHeader v.st.hdr = .ok ⟨magic, type, seq, size, ts⟩ := readHeader_headerBytes ..
    have hrun : Machine.prHdr (s.ctx sid st) (bytes.drop pos) = (headerComplete v).map fun r => (12 - c, r) := by
      rw [hrun, show 12 - (s.ctx sid st).st.hdrCnt.toNat = 12 - c from rfl, hv]
    have hcomplete := finish_headerComplete (v := v) hs hj ⟨rfl, rfl, rfl, rfl, rfl, .refl _⟩ ⟨hrest, hgrants, hfree⟩
      hread (.header (pos + (12 - c))) (pos + (12 - c))
    rw [exec_prHdr hs hj hp, hrun]
    refine Eq.trans ?_ hcomplete
    cases headerComplete v <;> rfl

end Sys2Proof.Settled
end

section
/-! PROOFS. Each conversion where its clock reads are answered and its lock is free: the reference, the corrected wrap count,
the tick count of a later call, and the sanity check with its resynchronization (R211 to R219). -/

namespace Sys2Proof.Machine

/-! ### The reference and the host time since it -/

/-- The view of a stream that has just established the reference (R79, R212). -/
def RdCtx.established (v : RdCtx) (tick : Tick) (now : Micros) (io : Io) : RdCtx :=
  { v with ref := ⟨true, tick, now⟩, io := io }

/-- A free `CLK_LOCK` is taken and given back, and the reference is written with the clock's answer (R212). -/
theorem csEstablish_answers {v : RdCtx} {now : Micros} {io : Io} (op : TimeOp) (hr : v.ref.valid = false)
    (hc : v.clkLock = none) (hg : v.io.grantLocks = true) (hn : hostClock v.io = some (now, io)) :
    csEstablish op v = .done () (v.established op.tick now io) := by
  rw [csEstablish_free op hc hg, csReference_answers (v := { v with clkLock := some (.rd v.sid) }) op hr hn,
    RdCtx.established, ← hc]

/-- A conversion asked for before any reference establishes it and goes on with it (R211, R219). -/
theorem csBegin_establishes {op : TimeOp} {v : RdCtx} {now : Micros} {io : Io} (ha : op.asks = true) (h0 : op ≠ .tohost 0)
    (hr : v.ref.valid = false) (hc : v.clkLock = none) (hg : v.io.grantLocks = true)
    (hn : hostClock v.io = some (now, io)) : csBegin op v = csEstablished op (v.established op.tick now io) := by
  rw [csBegin_unreferenced ha hr h0, csEstablish_answers op hr hc hg hn]
  rfl

/-- The host clock is not behind a reference that is not after its last answer (R14). -/
theorem reference_le_now {io io' : Io} {now host : Micros} (hle : host ≤ io.clock.last)
    (hn : hostClock io = some (now, io')) : host.toNat ≤ now.toNat := BitVec.le_trans hle (hostClock_ge_last hn)

/-- The difference to the reference is what has elapsed (R14, R219). -/
theorem csElapsed_answers {v : RdCtx} {now : Micros} {io : Io} (op : TimeOp) (hle : v.ref.host ≤ v.io.clock.last)
    (hn : hostClock v.io = some (now, io)) : csElapsed op v = .ok (.done (now - v.ref.host) { v with io := io }) := by
  have hafter := reference_le_now hle hn
  have hus : to64 ((now.toNat : Int) - v.ref.host.toNat) = .ok (now - v.ref.host) := by
    rw [to64_ok (by omega) (by omega)]
    exact congrArg _ (by bv_omega)
  simp only [csElapsed, hn, hus]
  rfl

/-! ### The corrected wrap count -/

/-- The elapsed ticks do not go below zero where the clock is not behind the reference (R213). -/
theorem elapsedTicks_eq {host now : Micros} (freq : Nat) (h : host.toNat ≤ now.toNat) :
    elapsedTicks freq host now = (((now.toNat - host.toNat) * freq : Nat) : Int) := by
  rw [elapsedTicks, Int.natCast_mul, Int.ofNat_sub h]

theorem wrapSpan_eq (cfg : Cfg) : wrapSpan cfg = ((2 ^ cfg.tickBits : Nat) : Int) := by simp [wrapSpan]

theorem wrapClamped_iff {w : Int} {tick refTick : Tick} :
    wrapClamped w tick refTick = true ↔ w < 0 ∨ (w = 0 ∧ tick.toNat < refTick.toNat) := by
  simp [wrapClamped, BitVec.lt_def]

/-- The correction adds at most one wrap to the whole wraps elapsed (R213). -/
theorem wrapCount_mul_le {span e : Int} (tick refTick : Tick) (hspan : 0 < span) :
    wrapCount span e tick refTick * span ≤ e + span := by
  have hrough : e / span * span ≤ e := Int.ediv_mul_le e (Int.ne_of_gt hspan)
  have hmore : (e / span + 1) * span = e / span * span + span := by ring
  have hless : (e / span - 1) * span = e / span * span - span := by ring
  unfold wrapCount
  dsimp only
  split
  · omega
  · split <;> omega

/-- Where the host clock is off by less than half a wrap, the rough estimate is off by at most one wrap, and the correction
finds the true count (R214, R220). -/
theorem wrapCount_exact {span e k : Int} {tick refTick : Tick} (hle : refTick.toNat ≤ tick.toNat) (hlt : tick.toNat < span)
    (hbehind : e < k * span + (tick.toNat - refTick.toNat) + span / 2)
    (hahead : k * span + (tick.toNat - refTick.toNat) < e + span / 2) : wrapCount span e tick refTick = k := by
  have hspan : 0 < span := by omega
  have hlow : e / span * span ≤ e := Int.ediv_mul_le e (Int.ne_of_gt hspan)
  have hhigh : e < (e / span + 1) * span := Int.lt_ediv_add_one_mul_self e hspan
  have hup : e / span < k + 2 := lt_of_mul_lt_mul_right (b := e / span) (c := k + 2) (by
    have : (k + 2) * span = k * span + 2 * span := by ring
    omega) hspan.le
  have hdown : k - 1 < e / span + 1 := lt_of_mul_lt_mul_right (b := k - 1) (c := e / span + 1) (by
    have : (k - 1) * span = k * span - span := by ring
    omega) hspan.le
  unfold wrapCount
  obtain hw | hw | hw : e / span = k - 1 ∨ e / span = k ∨ e / span = k + 1 := by omega
  · have hmul : (k - 1) * span = k * span - span := by ring
    simp only [hw, hmul]
    rw [if_pos (by omega)]
    omega
  · simp only [hw]
    rw [if_neg (by omega), if_neg (by omega)]
  · have hmul : (k + 1) * span = k * span + span := by ring
    simp only [hw, hmul]
    rw [if_neg (by omega), if_pos (by omega)]
    omega

/-- The wrap count `w` that `CS.INIT` finds where the host clock answers `now` (R213). -/
def wrapsFound (cfg : Cfg) (ref : ClockRef) (tick : Tick) (now : Micros) : Int :=
  wrapCount (wrapSpan cfg) (elapsedTicks cfg.freq ref.host now) tick ref.tick

/-- `CS.INIT` comes to `total` ticks of whole wraps and the last tick `last`, clamped where it must be, and the count from the
reference fits the registers (R213, R215, R222). -/
structure Counts (cfg : Cfg) (ref : ClockRef) (tick : Tick) (now : Micros) (total : Nat) (last : Tick) : Prop where
  whole : (total : Int) = (if wrapClamped (wrapsFound cfg ref tick now) tick ref.tick then 0
    else wrapsFound cfg ref tick now) * wrapSpan cfg
  clamp : last = if wrapClamped (wrapsFound cfg ref tick now) tick ref.tick then ref.tick else tick
  reach : ref.tick.toNat ≤ total + last.toNat
  width : total < 18446744073709551616
  fits : total + last.toNat - ref.tick.toNat < 18446744073709551616

/-- A clamped tick count starts at the reference (R215). -/
theorem counts_clamped {cfg : Cfg} {ref : ClockRef} {tick : Tick} {now : Micros}
    (h : wrapClamped (wrapsFound cfg ref tick now) tick ref.tick = true) : Counts cfg ref tick now 0 ref.tick where
  whole := by simp [h]
  clamp := by simp [h]
  reach := by omega
  width := by decide
  fits := by omega

/-- A tick count that is not clamped is its whole wraps and the tick (R213). -/
theorem counts_unclamped {cfg : Cfg} {ref : ClockRef} {tick : Tick} {now : Micros} {total : Nat}
    (h : wrapClamped (wrapsFound cfg ref tick now) tick ref.tick = false)
    (hwhole : (total : Int) = wrapsFound cfg ref tick now * wrapSpan cfg) (hreach : ref.tick.toNat ≤ total + tick.toNat)
    (hwidth : total < 18446744073709551616) (hfits : total + tick.toNat - ref.tick.toNat < 18446744073709551616) :
    Counts cfg ref tick now total tick :=
  ⟨by simp [h, hwhole], by simp [h], hreach, hwidth, hfits⟩

/-- At the reference's own tick and time no wrap and no tick has passed (R213). -/
theorem counts_at_reference (cfg : Cfg) (tick : Tick) (now : Micros) : Counts cfg ⟨true, tick, now⟩ tick now 0 tick := by
  have hspan : (0 : Int) < wrapSpan cfg := by
    rw [wrapSpan_eq]
    exact_mod_cast Nat.two_pow_pos _
  have hw : wrapsFound cfg ⟨true, tick, now⟩ tick now = 0 := by
    have hhalf : 0 ≤ wrapSpan cfg / 2 := by omega
    simp [wrapsFound, wrapCount, elapsedTicks, Int.not_lt.mpr hhalf]
  refine counts_unclamped ?_ (by simp [hw]) (by simp) (by decide) (by simp)
  simp [hw, wrapClamped]

/-! ### A first call and a resynchronization -/

/-- A count in ticks as microseconds, the remainder dropped, in a 64-bit register (R213, R216). -/
theorem to64_micros {total tick refTick : Nat} (freq : Nat) (hreach : refTick ≤ total + tick)
    (hfits : total + tick - refTick < 18446744073709551616) :
    to64 (((total : Int) + tick - refTick) / freq) = .ok (BitVec.ofNat 64 ((total + tick - refTick) / freq)) := by
  have hcast : ((total : Int) + tick - refTick) / freq = (((total + tick - refTick) / freq : Nat) : Int) := by
    rw [Int.natCast_ediv, Int.ofNat_sub hreach, Int.natCast_add]
  have hle : (total + tick - refTick) / freq ≤ total + tick - refTick := Nat.div_le_self _ _
  rw [hcast, to64_ok (Int.natCast_nonneg _) (by omega), Int.toNat_natCast]

/-- A number that fits is kept in a 64-bit register. -/
theorem to64_natCast {n : Nat} (h : n < 18446744073709551616) : to64 (n : Int) = .ok (BitVec.ofNat 64 n) := by
  rw [to64_ok (Int.natCast_nonneg n) (by omega), Int.toNat_natCast]

/-- The record of a stream after its first call (R213). -/
def Stream.counting (st : Stream) (ref : ClockRef) (total : Nat) (last : Tick) : Stream :=
  { st with syLref := ref.tick, syTotal := BitVec.ofNat 64 total, syLastTick := last, syFirst := false }

/-- The microseconds of a tick count from the reference (R213). -/
def countedMicros (cfg : Cfg) (ref : ClockRef) (total : Nat) (last : Tick) : Micros :=
  BitVec.ofNat 64 ((total + last.toNat - ref.tick.toNat) / cfg.freq)

theorem csInitAt_counts {v : RdCtx} {tick : Tick} {now : Micros} {total : Nat} {last : Tick}
    (h : Counts v.cfg v.ref tick now total last) : csInitAt v tick now = .ok (countedMicros v.cfg v.ref total last,
      { v with st := { v.st with syLref := v.ref.tick, syTotal := BitVec.ofNat 64 total, syLastTick := last } }) := by
  have htotal := to64_natCast h.width
  rw [h.whole] at htotal
  have hres := to64_micros v.cfg.freq h.reach h.fits
  have hnat : (BitVec.ofNat 64 total).toNat = total := Nat.mod_eq_of_lt h.width
  rw [h.clamp] at hres
  unfold csInitAt
  dsimp only
  rw [← wrapsFound, htotal]
  dsimp only [Bind.bind, Except.bind]
  rw [hnat, hres, ← h.clamp]
  rfl

/-- `CS.INIT` whose clock read is answered (R213). -/
theorem csInit_counts {v : RdCtx} {now : Micros} {io : Io} {total : Nat} {last : Tick} (op : TimeOp)
    (hn : hostClock v.io = some (now, io)) (h : Counts v.cfg v.ref op.tick now total last) :
    csInit op v = .ok (.done (countedMicros v.cfg v.ref total last)
      { v with st := v.st.counting v.ref total last, io := io }) := by
  have hat := csInitAt_counts (v := { v with io := io, st := { v.st with syFirst := false } }) h
  simp only [csInit, csInitRead, hn, hat]
  rfl

/-- `CS.RESYNC` is a first call after its event (R218). -/
theorem csResync_counts {v : RdCtx} {now : Micros} {io : Io} {total : Nat} {last : Tick} (op : TimeOp)
    (hn : hostClock v.io = some (now, io)) (h : Counts v.cfg v.ref op.tick now total last) :
    csResync op v = .ok (.done (countedMicros v.cfg v.ref total last)
      { v with st := v.st.counting v.ref total last, io := io.puts [.event (.clockDesync v.sid)] }) :=
  csInit_counts (v := { v.raise (.clockDesync v.sid) with st := { v.st with syFirst := true } }) op
    (hostClock_puts_some _ hn) h

/-- What a first call comes to does not depend on the operation it belongs to. -/
theorem csInit_done {v u : RdCtx} {us : Micros} {op op' : TimeOp} (ht : op.tick = op'.tick)
    (h : csInit op v = .ok (.done us u)) : csInit op' v = .ok (.done us u) := by
  unfold csInit csInitRead at h ⊢
  rw [← ht]
  dsimp only at h ⊢
  cases hn : hostClock v.io with
  | none => simp [hn] at h
  | some p => simpa only [hn] using h

/-! ### A later call -/

/-- From one tick to the next there is at least one tick and at most one wrap, a whole one where the next is not greater
(R216, R217). -/
theorem ticks_since {span last tick : Nat} (hlast : last < span) (htick : tick < span) :
    (tick + (span - 1) - last) % span + 1 + last = tick + if last < tick then 0 else span := by
  split
  · have hsplit : tick + (span - 1) - last = tick - last - 1 + span := by omega
    rw [hsplit, Nat.add_mod_right, Nat.mod_eq_of_lt (by omega)]
    omega
  · rw [Nat.mod_eq_of_lt (by omega)]
    omega

/-- `CS.ADVANCE` whose count fits the registers (R216, R217). -/
theorem csAdvance_counts {v : RdCtx} {tick : Tick} {total : BitVec 64}
    (hwhole : (total.toNat : Int) = v.st.syTotal.toNat + (if v.st.syLastTick < tick then 0 else wrapSpan v.cfg))
    (hreach : v.st.syLref.toNat ≤ total.toNat + tick.toNat)
    (hfits : total.toNat + tick.toNat - v.st.syLref.toNat < 18446744073709551616) :
    csAdvance v tick = .ok (BitVec.ofNat 64 ((total.toNat + tick.toNat - v.st.syLref.toNat) / v.cfg.freq),
      { v with st := { v.st with syTotal := total, syLastTick := tick } }) := by
  have htotal := to64_natCast total.isLt
  rw [hwhole, BitVec.ofNat_toNat, BitVec.setWidth_eq] at htotal
  unfold csAdvance
  rw [htotal]
  dsimp only [Bind.bind, Except.bind]
  rw [to64_micros v.cfg.freq hreach hfits]

/-- `CS.ADVANCE` writes no result register (R216). -/
theorem csAdvance_keeps_result (v : RdCtx) (tick : Tick) :
    Yields (csAdvance v tick) fun p => p.2.st.syLastRes = v.st.syLastRes :=
  (yields_trivial _).bind fun _ _ => (yields_trivial _).bind fun _ _ => yields_ok rfl

/-! ### A conversion to host time -/

/-- The view of a stream that has accepted a result (R211). -/
def RdCtx.accepted (us : Micros) (v : RdCtx) : RdCtx := { v with st := { v.st with syLastRes := us } }

section Convert

variable {v u w : RdCtx} {us us' : Micros} {op : TimeOp}

/-- A first call's result is accepted unchecked (R211). -/
theorem csConvert_first (hf : v.st.syFirst = true) (hi : csInit op v = .ok (.done us u)) :
    csConvert op v = .ok (.done us (u.accepted us)) := by
  rw [csConvert, if_pos hf, hi]
  rfl

/-- A later call's result is accepted where the jump is within the tolerance (R211). -/
theorem csConvert_within (hf : v.st.syFirst = false) (ha : csAdvance v op.tick = .ok (us, u))
    (hjump : ((us.toNat : Int) - u.st.syLastRes.toNat).natAbs ≤ u.cfg.sanityTolUs) :
    csConvert op v = .ok (.done us (u.accepted us)) := by
  have hcheck : ¬ jumpTooBig u.cfg.sanityTolUs us u.st.syLastRes = true := by simpa [jumpTooBig] using hjump
  rw [csConvert, if_neg (by simp [hf]), ha]
  exact if_neg hcheck

/-- Beyond the tolerance the stream is resynchronized, and that result accepted unchecked (R211, R218). -/
theorem csConvert_beyond (hf : v.st.syFirst = false) (ha : csAdvance v op.tick = .ok (us, u))
    (hjump : u.cfg.sanityTolUs < ((us.toNat : Int) - u.st.syLastRes.toNat).natAbs)
    (hresync : csResync op u = .ok (.done us' w)) : csConvert op v = .ok (.done us' (w.accepted us')) := by
  have hcheck : jumpTooBig u.cfg.sanityTolUs us u.st.syLastRes = true := by simpa [jumpTooBig] using hjump
  rw [csConvert, if_neg (by simp [hf]), ha]
  show (if jumpTooBig u.cfg.sanityTolUs us u.st.syLastRes then _ else _) = _
  rw [if_pos hcheck, hresync]
  rfl

end Convert

/-! ### Each on the view of its stream -/

section Exec

variable {s : State} {sid : Nat} {st st' : Stream} {tick : Tick} {now us : Micros} {io : Io}

theorem exec_csAdvance (hs : s.streams[sid]? = some st) : exec (.csAdvance sid tick) s =
    s.finish (csAdvance (s.ctx sid st) (counterTick s.cfg tick) >>= fun p => .ok (.time p.1, p.2)) := by
  rw [exec, execCsAdvance, onStream_eq_finish hs]
  rfl

theorem exec_csResync (hs : s.streams[sid]? = some st) (hj : st.job = none) : exec (.csResync sid tick) s =
    s.finish (settled (.init (counterTick s.cfg tick)) none
      (csResync (.init (counterTick s.cfg tick)) (s.ctx sid st))) :=
  onClock_eq_finish hs hj _ _ _ _

/-- `CS.ESTABLISH` before any reference, its lock free and its clock read answered (R212). -/
theorem exec_csEstablish_answers (hs : s.streams[sid]? = some st) (hj : st.job = none) (hr : s.ref.valid = false)
    (hc : s.clkLock = none) (hg : s.io.grantLocks = true) (hn : hostClock s.io = some (now, io)) :
    exec (.csEstablish ⟨sid, tick⟩) s =
      .next (s.leaves .none ((s.ctx sid st).established (counterTick s.cfg tick) now io)) := by
  have hestablish := csEstablish_answers (v := s.ctx sid st) (.establish (counterTick s.cfg tick)) hr hc hg hn
  rw [exec_csEstablish hs hj, csBegin, hestablish]
  rfl

/-- A first call as an operation of its own (R213). -/
theorem exec_csInit_counts {total : Nat} {last : Tick} (hs : s.streams[sid]? = some st) (hj : st.job = none)
    (hn : hostClock s.io = some (now, io)) (h : Counts s.cfg s.ref (counterTick s.cfg tick) now total last) :
    exec (.csInit sid tick) s =
      .next (s.put sid (st.counting s.ref total last) io (.time (countedMicros s.cfg s.ref total last))) := by
  rw [exec_csInit hs hj, csBegin, csInit_counts (v := s.ctx sid st) (.init (counterTick s.cfg tick)) hn h]
  rfl

/-- A resynchronization as an operation of its own (R218). -/
theorem exec_csResync_counts {total : Nat} {last : Tick} (hs : s.streams[sid]? = some st) (hj : st.job = none)
    (hn : hostClock s.io = some (now, io)) (h : Counts s.cfg s.ref (counterTick s.cfg tick) now total last) :
    exec (.csResync sid tick) s = .next (s.put sid (st.counting s.ref total last)
      (io.puts [.event (.clockDesync sid)]) (.time (countedMicros s.cfg s.ref total last))) := by
  rw [exec_csResync hs hj, csResync_counts (v := s.ctx sid st) (.init (counterTick s.cfg tick)) hn h]
  rfl

/-- What an operation of a stream leaves tells its view, where it leaves the reference and `CLK_LOCK` as they are. -/
theorem view_of_put {v : RdCtx} {r r' : Ret} (hs : s.streams[sid]? = some st) (hv : Converts (s.ctx sid st) v)
    (h : s.leaves r v = s.put sid st' io r') : v = s.ctxOf sid s.ref s.clkLock st' io :=
  leaves_inj (r' := r') hs hv.sid rfl hv.cfg hv.cap h

/-- A conversion on its own that answers has come to its end in the view it leaves. -/
theorem done_of_put {op : TimeOp} {x : Except Fault (Run Micros)} (hs : s.streams[sid]? = some st)
    (hx : YieldsConverted (s.ctx sid st) x) (h : s.finish (settled op none x) = .next (s.put sid st' io (.time us))) :
    x = .ok (.done us (s.ctxOf sid s.ref s.clkLock st' io)) := by
  cases x with
  | error e => cases h
  | ok r =>
    cases r with
    | wait w v => cases congrArg State.ret (Host.Outcome.next.inj h)
    | done us' v =>
      have hleaves : s.leaves (op.value us') v = s.put sid st' io (.time us) := Host.Outcome.next.inj h
      have hval : op.value us' = .time us := congrArg State.ret hleaves
      have hview : v = s.ctxOf sid s.ref s.clkLock st' io := view_of_put hs (hx _ rfl) hleaves
      cases op with
      | establish t => cases hval
      | tohost t | hostonly | init t =>
        cases hval
        rw [hview]

theorem csInit_of_exec (hs : s.streams[sid]? = some st) (hj : st.job = none)
    (h : exec (.csInit sid tick) s = .next (s.put sid st' io (.time us))) :
    csInit (.tohost (counterTick s.cfg tick)) (s.ctx sid st) =
      .ok (.done us (s.ctxOf sid s.ref s.clkLock st' io)) := by
  rw [exec_csInit hs hj] at h
  exact csInit_done (op := .init (counterTick s.cfg tick)) rfl (done_of_put hs (csInit_converts _ _) h)

theorem csResync_of_exec (hs : s.streams[sid]? = some st) (hj : st.job = none)
    (h : exec (.csResync sid tick) s = .next (s.put sid st' io (.time us))) :
    csResync (.tohost (counterTick s.cfg tick)) (s.ctx sid st) =
      .ok (.done us (s.ctxOf sid s.ref s.clkLock st' io)) := by
  rw [exec_csResync hs hj] at h
  exact csInit_done (op := .init (counterTick s.cfg tick)) rfl (done_of_put hs (csResync_converts _ _) h)

theorem csAdvance_of_exec (hs : s.streams[sid]? = some st)
    (h : exec (.csAdvance sid tick) s = .next (s.put sid st' io (.time us))) :
    csAdvance (s.ctx sid st) (counterTick s.cfg tick) = .ok (us, s.ctxOf sid s.ref s.clkLock st' io) := by
  rw [exec_csAdvance hs] at h
  cases hx : csAdvance (s.ctx sid st) (counterTick s.cfg tick) with
  | error e =>
    rw [hx] at h
    cases h
  | ok p =>
    rw [hx] at h
    have hleaves : s.leaves (.time p.1) p.2 = s.put sid st' io (.time us) := Host.Outcome.next.inj h
    have hus : p.1 = us := Ret.time.inj (congrArg State.ret hleaves)
    have hview := view_of_put hs (csAdvance_converts _ _ p hx) hleaves
    rw [← hus, ← hview]

/-- `CS.TOHOST` with a reference answers what the conversion comes to (R211). -/
theorem exec_csTohost_answers (hs : s.streams[sid]? = some st) (hj : st.job = none) (hr : s.ref.valid = true)
    (h : csConvert (.tohost (counterTick s.cfg tick)) (s.ctx sid st) =
      .ok (.done us ((s.ctxOf sid s.ref s.clkLock st' io).accepted us))) :
    exec (.csTohost (.rd sid) sid tick) s = .next
      (s.put sid { st' with syLastRes := us } (io.puts [.result (.rd sid) (.time us)]) (.time us)) := by
  rw [exec_csTohost hs hj, csBegin_referenced rfl hr, csEstablished, h]
  rfl

/-- `CS.HOSTONLY` with a reference answers the host time since (R219). -/
theorem exec_csHostonly_answers (hs : s.streams[sid]? = some st) (hj : st.job = none) (hr : s.ref.valid = true)
    (hle : s.ref.host ≤ s.io.clock.last) (hn : hostClock s.io = some (now, io)) :
    exec (.csHostonly (.rd sid) sid) s = .next (s.put sid st
      (io.puts [.result (.rd sid) (.time (now - s.ref.host))]) (.time (now - s.ref.host))) := by
  rw [exec_csHostonly hs hj, csBegin_referenced rfl hr, csEstablished,
    csElapsed_answers (v := s.ctx sid st) .hostonly hle hn]
  rfl

/-- `CS.TOHOST` of a tick that establishes the reference is the establishing and the same conversion again (R211, R212). -/
theorem exec_csTohost_establishes (hs : s.streams[sid]? = some st) (hj : st.job = none) (hr : s.ref.valid = false)
    (hc : s.clkLock = none) (hg : s.io.grantLocks = true) (hn : hostClock s.io = some (now, io))
    (h0 : counterTick s.cfg tick ≠ 0) : exec (.csTohost (.rd sid) sid tick) s =
      andThen (exec (.csEstablish ⟨sid, tick⟩) s) (exec (.csTohost (.rd sid) sid tick)) := by
  let op : TimeOp := .tohost (counterTick s.cfg tick)
  let u : RdCtx := (s.ctx sid st).established op.tick now io
  have hop : op ≠ .tohost 0 := fun h => h0 (TimeOp.tohost.inj h)
  have hu : Onward (s.ctx sid st) u := ⟨rfl, rfl, rfl, rfl, rfl, grows_hostClock hn⟩
  have hagain := exec_leaves (i := .csTohost (.rd sid) sid tick) (r := .none)
    (F := fun v => settled (.tohost (counterTick v.cfg tick)) (some (.rd sid)) (csBegin (.tohost (counterTick v.cfg tick)) v))
    hs hu (fun _ ht => exec_csTohost ht hj tick) (settled_sid _ _ (csBegin_converts _ u))
  rw [exec_csEstablish_answers hs hj hr hc hg hn]
  refine Eq.trans ?_ hagain.symm
  rw [exec_csTohost hs hj, csBegin_establishes rfl hop hr hc hg hn]
  exact congrArg (fun x => s.finish (settled op (some (.rd sid)) x))
    (csBegin_referenced (op := op) (v := u) rfl rfl).symm

end Exec

end Sys2Proof.Machine

namespace Sys2Proof.Settled

open Machine

/-- Settles O51: the reference is written once, and what has elapsed since is counted from it. -/
theorem csHostonly : Obligations.CsHostonly := by
  intro s sid st tick now io hs hj hn answers
  refine ⟨fun hr => ⟨fun hc hg => ?known, fun hle => exec_csHostonly_answers hs hj hr hle hn⟩,
    fun hr hc hg => ⟨exec_csEstablish_answers hs hj hr hc hg hn, fun later io' hlater => ?fresh⟩⟩
  case known =>
    rw [exec_csEstablish hs hj, csBegin, csEstablish_valid (v := s.ctx sid st) _ hc hg hr]
    rfl
  case fresh =>
    have hle : now ≤ io.clock.last := by
      rw [hostClock_io hn]
      exact BitVec.le_refl _
    have helapsed := csElapsed_answers (v := (s.ctx sid st).established 0 now io) .hostonly hle hlater
    show exec (.csHostonly (.rd sid) sid) s = _
    rw [exec_csHostonly hs hj,
      csBegin_establishes (op := .hostonly) (v := s.ctx sid st) rfl (by simp) hr hc hg hn]
    show s.finish (settled .hostonly _ (csElapsed .hostonly ((s.ctx sid st).established 0 now io))) = _
    rw [helapsed]
    rfl

/-- Settles O52: the wrap count stays within the width bound, clamped or not. -/
theorem csInit : Obligations.CsInit := by
  intro s sid st operand now io hs hj hn hhost hlegal span hspan hbound tick e w0 est half w clamped total t st' us
  have hw : wrapsFound s.cfg s.ref tick now = w := by
    rw [wrapsFound, wrapSpan_eq]
    rfl
  have hcounts : Counts s.cfg s.ref tick now total t := by
    by_cases hclamp : clamped
    · rw [show total = 0 from if_pos hclamp, show t = s.ref.tick from if_pos hclamp]
      exact counts_clamped (hw ▸ wrapClamped_iff.mpr hclamp)
    · rw [show total = w.toNat * span from if_neg hclamp, show t = tick from if_neg hclamp]
      have hnonneg : 0 ≤ w := Int.not_lt.mp fun h => hclamp (.inl h)
      have hwhole : ((w.toNat * span : Nat) : Int) = w * span := by rw [Int.natCast_mul, Int.toNat_of_nonneg hnonneg]
      obtain ⟨-, hreach⟩ := wraps_reach hspan hwhole (fun h => hclamp (.inl h)) fun h =>
        Nat.not_lt.mp fun hlt => hclamp (.inr ⟨h, hlt⟩)
      have he : e = (((now.toNat - s.ref.host.toNat) * s.cfg.freq : Nat) : Int) :=
        elapsedTicks_eq s.cfg.freq (reference_le_now hhost hn)
      have hle : w * span ≤ e + span := wrapCount_mul_le tick s.ref.tick (Int.natCast_pos.mpr (Nat.two_pow_pos _))
      have htick : tick.toNat < span := counterTick_lt s.cfg operand
      refine counts_unclamped ?_ (by rw [hw, wrapSpan_eq, hwhole]) hreach (by omega) (by omega)
      rw [hw]
      exact Bool.eq_false_iff.mpr (wrapClamped_iff.not.mpr hclamp)
  exact ⟨exec_csInit_counts hs hj hn hcounts, exec_csResync_counts hs hj hn hcounts⟩

/-- Settles O53: the wrap count found is the true one. -/
theorem csInitExact : Obligations.CsInitExact := by
  intro s sid st operand E now io hs hj hn hlegal hhost hE span tick htick hle elapsed hbehind hahead
  let q := (s.ref.tick.toNat + E) / span
  let total := s.ref.tick.toNat + E - tick.toNat
  have hlt : tick.toNat < span := counterTick_lt s.cfg operand
  have hsplit : q * span + tick.toNat = s.ref.tick.toNat + E := by
    rw [htick]
    exact Nat.div_add_mod' _ _
  have htotal : q * span = total := Nat.eq_sub_of_add_eq hsplit
  have helapsed : elapsedTicks s.cfg.freq s.ref.host now = (elapsed : Int) :=
    elapsedTicks_eq s.cfg.freq (reference_le_now hhost hn)
  have hcast : (q : Int) * (span : Int) = (total : Int) := by exact_mod_cast htotal
  have hwraps : wrapsFound s.cfg s.ref tick now = q := by
    rw [wrapsFound, wrapSpan_eq, helapsed]
    exact wrapCount_exact (span := (span : Int)) hle (by omega) (by omega) (by omega)
  have hcounts : Counts s.cfg s.ref tick now total tick := by
    refine counts_unclamped ?_ (by rw [hwraps, wrapSpan_eq, ← hcast]) (by omega) (by omega) (by omega)
    rw [hwraps, Bool.eq_false_iff, Ne, wrapClamped_iff]
    rintro (hneg | ⟨-, hbelow⟩)
    · exact Int.not_lt.mpr (Int.natCast_nonneg q) hneg
    · exact Nat.not_lt.mpr hle hbelow
  have hE : total + tick.toNat - s.ref.tick.toNat = E := by omega
  rw [exec_csInit_counts hs hj hn hcounts, countedMicros, hE]
  rfl

/-- Settles O54: a tick not above the last one is one wrap on. -/
theorem csAdvance : Obligations.CsAdvance := by
  intro s sid st operand hs hlegal span hlref hlast hreach T hT tick T'
  have htick : tick.toNat < span := counterTick_lt s.cfg operand
  let total : BitVec 64 := if st.syLastTick.toNat < tick.toNat then st.syTotal else st.syTotal + BitVec.ofNat 64 span
  have htotal : total.toNat = st.syTotal.toNat + if st.syLastTick.toNat < tick.toNat then 0 else span := by
    rw [apply_ite BitVec.toNat, BitVec.toNat_add, BitVec.toNat_ofNat, Nat.mod_eq_of_lt (a := span) (by omega),
      Nat.mod_eq_of_lt (by omega)]
    split <;> rfl
  have hsince := ticks_since hlast htick
  have hcount : T' = total.toNat + tick.toNat - st.syLref.toNat := by
    rw [htotal]
    omega
  have hwhole : (total.toNat : Int) = st.syTotal.toNat + if st.syLastTick < tick then 0 else wrapSpan s.cfg := by
    rw [htotal, wrapSpan_eq]
    simp only [BitVec.lt_def]
    split <;> simp [span]
  have hafter : st.syLref.toNat ≤ total.toNat + tick.toNat := by omega
  have hbound : T' ≤ T + span := Nat.add_le_add_left (Nat.mod_lt _ (Nat.two_pow_pos _)) T
  have hfits : total.toNat + tick.toNat - st.syLref.toNat < 18446744073709551616 := by omega
  have hadvance := csAdvance_counts (v := s.ctx sid st) (tick := tick) hwhole hafter hfits
  refine ⟨total, rfl, hcount, ?_⟩
  rw [exec_csAdvance hs, hadvance, hcount]
  rfl

/-- Settles O55: each case of the conversion from what its parts come to. -/
theorem csTohost : Obligations.CsTohost := by
  intro s sid st tick hs hj c answers
  refine ⟨fun hr hc => ?zero, fun hr hc hg hn h0 => ?establishes, fun st' io us hr hf hi => ?first,
    fun st' io us hr hf ha => ?later, fun now hr hc hg h0 hf hsteady => ?fresh⟩
  case zero =>
    have hbegin : csBegin (.tohost c) (s.ctx sid st) = .ok (.done 0 (s.ctx sid st)) := by
      rw [csBegin, if_neg (by simp [State.ctx, hr]), if_pos hc]
    rw [exec_csTohost hs hj, hbegin]
    rfl
  case establishes =>
    obtain ⟨⟨now, io⟩, hn⟩ := Option.ne_none_iff_exists'.mp hn
    exact exec_csTohost_establishes hs hj hr hc hg hn h0
  case first => exact exec_csTohost_answers hs hj hr (csConvert_first hf (csInit_of_exec hs hj hi))
  case later =>
    have hadvance := csAdvance_of_exec hs ha
    have hres : st'.syLastRes = st.syLastRes := csAdvance_keeps_result _ _ _ hadvance
    have hjob : st'.job = st.job := (csAdvance_converts _ _ _ hadvance).onward.job
    rw [← hres]
    refine ⟨fun hjump => exec_csTohost_answers hs hj hr (csConvert_within hf hadvance hjump),
      fun hjump st'' io' us' hresync => ?_⟩
    have hput : (s.put sid st' io (.time us)).put sid st'' io' (.time us') = s.put sid st'' io' (.time us') := by
      simp [State.put]
    have hstream : (s.put sid st' io (.time us)).streams[sid]? = some st' :=
      leaves_stream (v := s.ctxOf sid s.ref s.clkLock st' io) hs rfl (.time us)
    have hagain := csResync_of_exec (s := s.put sid st' io (.time us)) hstream (hjob.trans hj) (hput ▸ hresync)
    exact exec_csTohost_answers hs hj hr (csConvert_beyond hf hadvance hjump hagain)
  case fresh =>
    let u : RdCtx := (s.ctx sid st).established c now (s.io.reads now 1)
    have hfirst : csConvert (.tohost c) u = .ok (.done _ _) := csConvert_first hf
      (csInit_counts (v := u) (.tohost c) (hostClock_steady (clockSteady_reads hsteady 1)) (counts_at_reference s.cfg c now))
    rw [exec_csTohost hs hj, csBegin_establishes rfl (fun h => h0 (TimeOp.tohost.inj h)) hr hc hg (hostClock_steady hsteady)]
    show s.finish (settled (.tohost c) _ (csConvert (.tohost c) u)) = _
    rw [hfirst]
    have hus : countedMicros u.cfg u.ref 0 c = 0 := by simp [countedMicros, u, RdCtx.established]
    rw [hus]
    rfl

end Sys2Proof.Settled
end

section
/-! PROOFS. A packed element gives back the codes packed into it (R241, R247): its bytes are one number, and each raw code is a
digit of that number in base `2^W`. -/

namespace Sys2Proof.Machine

/-! ### Numbers as bytes and as codes -/

/-- The bytes of a number, read high first, are what fits them of the number. -/
theorem beNat_beBytes (n v : Nat) : beNat (beBytes n v) = v % 256 ^ n := by
  induction n generalizing v with
  | zero => exact (Nat.mod_one v).symm
  | succ n ih =>
    have hsplit : beNat (beBytes (n + 1) v) = beNat (beBytes n (v / 256)) * 256 + v % 256 := by
      simp [beNat, beBytes, leBytes]
    rw [hsplit, ih, Nat.pow_succ', Nat.mod_mul, Nat.mul_comm, Nat.add_comm]

@[simp] theorem packElement_length (w n : Nat) (codes : List Nat) : (packElement w n codes).length = n := by
  simp [packElement, beBytes]

/-- Codes of `w` bits pack to a number of as many bits as they have together. -/
theorem packNat_lt {w : Nat} {codes : List Nat} (h : ∀ c ∈ codes, c < 2 ^ w) : packNat w codes < 2 ^ (w * codes.length) := by
  induction codes with
  | nil => exact Nat.one_pos
  | cons c cs ih =>
    obtain ⟨hc, hcs⟩ := List.forall_mem_cons.mp h
    calc packNat w (c :: cs) < c * 2 ^ (w * cs.length) + 2 ^ (w * cs.length) := Nat.add_lt_add_left (ih hcs) _
      _ = (c + 1) * 2 ^ (w * cs.length) := (Nat.succ_mul _ _).symm
      _ ≤ 2 ^ w * 2 ^ (w * cs.length) := Nat.mul_le_mul_right _ hc
      _ = 2 ^ (w * (c :: cs).length) := by rw [← Nat.pow_add, List.length_cons, Nat.mul_succ, Nat.add_comm]

/-- Code `i` of packed codes is the digit above those of the codes after it. -/
theorem packNat_digit {w : Nat} {codes : List Nat} (h : ∀ c ∈ codes, c < 2 ^ w) (i : Nat) (hi : i < codes.length) :
    packNat w codes / 2 ^ (w * (codes.length - (i + 1))) % 2 ^ w = codes[i] := by
  induction codes generalizing i with
  | nil => exact absurd hi (Nat.not_lt_zero i)
  | cons c cs ih =>
    obtain ⟨hc, hcs⟩ := List.forall_mem_cons.mp h
    cases i with
    | zero =>
      have hfirst : packNat w (c :: cs) / 2 ^ (w * cs.length) = c := by
        rw [packNat, Nat.add_comm, Nat.add_mul_div_right _ _ (Nat.two_pow_pos _), Nat.div_eq_of_lt (packNat_lt hcs),
          Nat.zero_add]
      rw [List.length_cons, Nat.add_sub_cancel, hfirst]
      exact Nat.mod_eq_of_lt hc
    | succ j =>
      have hj : j < cs.length := Nat.lt_of_succ_lt_succ hi
      obtain ⟨k, hk⟩ : ∃ k, cs.length = k + (j + 1) := Nat.exists_eq_add_of_le' hj
      have hhigh : c * 2 ^ (w * cs.length) = c * 2 ^ (w * j) * 2 ^ w * 2 ^ (w * k) := by
        rw [hk, Nat.mul_add, Nat.mul_succ]
        ring
      have hrest := ih hcs j hj
      rw [hk, Nat.add_sub_cancel] at hrest
      rw [List.length_cons, Nat.add_sub_add_right, hk, Nat.add_sub_cancel, packNat, hhigh, Nat.add_comm,
        Nat.add_mul_div_right _ _ (Nat.two_pow_pos _), Nat.add_mul_mod_self_right, hrest, List.getElem_cons_succ]

/-- A packed element gives back its codes (R241, R247). -/
theorem rawCodes_packElement {cfg : Cfg} {w n : Nat} {codes : List Nat} (hn : 8 * n = w * cfg.elemOut)
    (hlen : codes.length = cfg.elemOut) (h : ∀ c ∈ codes, c < 2 ^ w) :
    rawCodes cfg w n (packElement w n codes) = codes := by
  have hfits : packNat w codes < 256 ^ n := by
    have hbits : 256 ^ n = 2 ^ (w * codes.length) := by rw [hlen, ← hn, Nat.pow_mul]
    exact hbits ▸ packNat_lt h
  refine List.ext_getElem (by simp [rawCodes, hlen]) fun i _ hi => ?_
  have hshift : 8 * n - w * i - w = w * (codes.length - (i + 1)) := by
    rw [hn, ← hlen, Nat.mul_sub, Nat.mul_succ, Nat.sub_sub]
  calc (rawCodes cfg w n (packElement w n codes))[i] = rawCode w n (packElement w n codes) i := by simp [rawCodes]
    _ = packNat w codes / 2 ^ (w * (codes.length - (i + 1))) % 2 ^ w := by
      rw [rawCode, hshift, packElement, beNat_beBytes, Nat.mod_eq_of_lt hfits]
    _ = codes[i] := packNat_digit h i hi

end Sys2Proof.Machine
end

section
/-! PROOFS. The samples that raw codes stand for (R245), the reads of the calibration tables (R253), and an element decoded to its
samples, as a list or to the frame (R244, R247). -/

namespace Sys2Proof.Machine

/-! ### Codes -/

section Codes

variable {v : RdCtx} {r : Nat}

/-- A code at or above the maximum is no-data, whatever the mode (R245). -/
theorem bdMap_beyond (h : v.cfg.maxCode ≤ r) : bdMap v r = .ok (BitVec.ofNat 16 v.cfg.noData) := if_pos h

/-- Without a table a code is its own sample (R245). -/
theorem bdMap_plain (h : r < v.cfg.maxCode) (hl : v.st.conf.lutEn = false) : bdMap v r = .ok (BitVec.ofNat 16 r) := by
  rw [bdMap, if_neg (Nat.not_le.mpr h), if_neg (by simp [hl])]

/-- With a table a code's sample is its cell (R245). -/
theorem bdMap_table {x : Half} (h : r < v.cfg.maxCode) (hl : v.st.conf.lutEn = true) (hx : readCell v.st.s2d r = some x) :
    bdMap v r = .ok x := by
  rw [bdMap, if_neg (Nat.not_le.mpr h), if_pos hl, hx]

/-- Where the table can be read, a code maps to the sample it stands for (R245). -/
theorem bdMap_sample {s : State} (hcfg : v.cfg = s.cfg) (ht : TableReady v.cfg v.st) (r : Nat) :
    bdMap v r = .ok (s.sample v.st r) := by
  unfold State.sample
  rw [← hcfg]
  split
  · exact bdMap_beyond ‹_›
  · have hr : r < v.cfg.maxCode := Nat.not_le.mp ‹_›
    split
    · rename_i hl
      obtain ⟨x, hx⟩ := (ht.resolve_left (by simp [hl])).cell hr
      rw [bdMap_table hr hl hx, hx]
      rfl
    · exact bdMap_plain hr (Bool.eq_false_iff.mpr ‹_›)

theorem mapCodes_samples {s : State} (hcfg : v.cfg = s.cfg) (ht : TableReady v.cfg v.st) (codes : List Nat) :
    mapCodes v codes = .ok (codes.map (s.sample v.st)) := by
  induction codes with
  | nil => rfl
  | cons c cs ih => rw [mapCodes, bdMap_sample hcfg ht, ih]; rfl

end Codes

/-! ### Table reads -/

section Readtable

variable {v : RdCtx} {idx : Nat}

/-- A table that was never built cannot be read (R253). -/
theorem bdReadtable_missing (h : v.st.calValid = false) (which : TableSel) (idx : Nat) :
    bdReadtable v which idx = .ok .refused := by
  simp [bdReadtable, h]

theorem bdReadtable_s2d_end (h : v.cfg.maxCode ≤ idx) : bdReadtable v .s2d idx = .ok .refused := by
  cases hv : v.st.calValid with
  | false => exact bdReadtable_missing hv _ _
  | true => simp [bdReadtable, hv, h]

theorem bdReadtable_d2s_end (h : v.cfg.maxDepth < idx) : bdReadtable v .d2s idx = .ok .refused := by
  cases hv : v.st.calValid with
  | false => exact bdReadtable_missing hv _ _
  | true => simp [bdReadtable, hv, h]

theorem bdReadtable_s2d_cell {x : Half} (hv : v.st.calValid = true) (h : idx < v.cfg.maxCode)
    (hx : readCell v.st.s2d idx = some x) : bdReadtable v .s2d idx = .ok (.cell x) := by
  simp [bdReadtable, hv, Nat.not_le.mpr h, hx]

theorem bdReadtable_d2s_cell {x : Half} (hv : v.st.calValid = true) (h : idx ≤ v.cfg.maxDepth)
    (hx : readCell v.st.d2s idx = some x) : bdReadtable v .d2s idx = .ok (.cell x) := by
  simp [bdReadtable, hv, Nat.not_lt.mpr h, hx]

end Readtable

section Tables

variable {s : State} {sid : Nat} {st : Stream}

/-- `BD.MAP` on its own (R245). -/
theorem exec_bdMap (hs : s.streams[sid]? = some st) {code x : Half} (hm : bdMap (s.ctx sid st) code.toNat = .ok x) :
    exec (.bdMap sid code) s = .next (s.put sid st s.io (.cell x)) := by
  rw [exec, execBdMap]
  exact onStream_put hs (by rw [hm]; rfl)

/-- `BD.READTABLE` under the stream's lock (R75, R253). -/
theorem exec_bdReadtable (hs : s.streams[sid]? = some st) (hl : st.lock = none) {which : TableSel} {idx : Nat} {r : Ret}
    (hr : bdReadtable ((s.ctx sid st).lock .host) which idx = .ok r) :
    exec (.bdReadtable .host sid which idx) s = .next (s.put sid st (s.io.puts [.result .host r]) r) := by
  rw [exec, execBdReadtable]
  exact onHost_put hs hl hl (by rw [hr]; rfl)

end Tables

/-! ### Samples as bytes -/

/-- A sample of a configuration in its domain is two bytes or more (R40, R45). -/
theorem two_le_sampleSize {cfg : Cfg} (h : cfgLegal cfg = true) : 2 ≤ cfg.sampleBits / 8 := by
  simp only [cfgLegal, Bool.and_eq_true, decide_eq_true_eq] at h
  obtain ⟨⟨-, h16, -⟩, -⟩ := h
  omega

/-- Samples are stored low byte first, as they are (R244). -/
theorem samplesBytes_eq {m : Nat} (hm : 2 ≤ m) (vs : List Half) :
    samplesBytes m vs = (vs.map fun v => leBytes m v.toNat).flatten := by
  have hstored (v : Half) : storedSample m v.toNat = leBytes m v.toNat :=
    storedSample_fits (Nat.lt_of_lt_of_le v.isLt (Nat.pow_le_pow_right (n := 256) (by decide) hm))
  simp only [samplesBytes, hstored]

/-- Samples of 16 bits are their two bytes (R244). -/
theorem samplesBytes_half (vs : List Half) : samplesBytes 2 vs = (vs.map halfBytes).flatten := by
  simp only [samplesBytes, storedSample_half]

theorem samplesBytes_append (m : Nat) (vs ws : List Half) :
    samplesBytes m (vs ++ ws) = samplesBytes m vs ++ samplesBytes m ws := by
  simp [samplesBytes]

/-! ### Elements -/

/-- The codes of one element (R9, R241). -/
abbrev ElementCodes (cfg : Cfg) (w : Nat) (codes : List Nat) : Prop :=
  codes.length = cfg.elemOut ∧ ∀ c ∈ codes, c < 2 ^ w

/-- A view of a stream that decodes elements of `n` bytes at width `w`, each code to the sample it stands for in the state. -/
structure Decoding (s : State) (v : RdCtx) (w n : Nat) : Prop where
  cfg : v.cfg = s.cfg
  table : TableReady v.cfg v.st
  spec : elemSpec v.cfg v.st.conf.codec = some (w, n)
  bits : 8 * n = w * v.cfg.elemOut
  nonempty : 1 ≤ n
  short : n ≤ 24

/-- A stream with an unpack codec decodes (R9, R35, R45). -/
theorem decoding_of_codec {s : State} {st : Stream} {w n : Nat} (sid : Nat) (hc : cfgLegal s.cfg = true)
    (ht : TableReady s.cfg st)
    (h : (st.conf.codec = .unpack11 ∧ w = 11 ∧ n = s.cfg.elemIn11) ∨
      (st.conf.codec = .unpack12 ∧ w = 12 ∧ n = s.cfg.elemIn12)) : Decoding s (s.ctx sid st) w n := by
  obtain ⟨h11, h11', h12, h12'⟩ := elementSizes_of_cfgLegal hc
  simp only [cfgLegal, elementLegal, Bool.and_eq_true, decide_eq_true_eq] at hc
  obtain ⟨⟨⟨-, ⟨⟨-, hbits11⟩, hbits12⟩, -⟩, -⟩, -⟩ := hc
  have hspec {w n : Nat} (he : elemSpec s.cfg st.conf.codec = some (w, n)) :
      elemSpec (s.ctx sid st).cfg (s.ctx sid st).st.conf.codec = some (w, n) := he
  obtain ⟨hcodec, rfl, rfl⟩ | ⟨hcodec, rfl, rfl⟩ := h
  · exact ⟨rfl, ht, hspec (by rw [hcodec]; rfl), hbits11, h11, h11'⟩
  · exact ⟨rfl, ht, hspec (by rw [hcodec]; rfl), hbits12, h12, h12'⟩

/-- Frame actions leave what a stream decodes, and to what. -/
theorem Decoding.frames {s : State} {v u : RdCtx} {w n : Nat} (h : Decoding s v w n) (hf : Frames v u) :
    Decoding s u w n ∧ s.sample u.st = s.sample v.st := by
  have hconf : u.st.conf = v.st.conf := by rw [hf.record]
  have hs2d : u.st.s2d = v.st.s2d := by rw [hf.record]
  refine ⟨⟨hf.cfg.trans h.cfg, hf.tableReady h.table, ?_, ?_, h.nonempty, h.short⟩, ?_⟩
  · rw [hf.cfg, hconf]; exact h.spec
  · rw [hf.cfg]; exact h.bits
  · funext c
    rw [State.sample, hconf, hs2d, State.sample]

section Element

variable {s : State} {v : RdCtx} {w n : Nat} {codes : List Nat}

/-- A packed element decodes to the samples of its codes (R244, R247). -/
theorem bdElementList_pack (h : Decoding s v w n) (he : ElementCodes v.cfg w codes) :
    bdElementList v w n (packElement w n codes) = .ok (codes.map (s.sample v.st)) := by
  rw [bdElementList, rawCodes_packElement h.bits he.1 he.2, mapCodes_samples h.cfg h.table]

/-- A packed element is one write to the frame (R61, R244). -/
theorem bdElementOut_pack (h : Decoding s v w n) (he : ElementCodes v.cfg w codes) :
    bdElementOut v w n (packElement w n codes) =
      .ok (appendOut v (samplesBytes (v.cfg.sampleBits / 8) (codes.map (s.sample v.st)))) := by
  rw [bdElementOut, bdElementList_pack h he]
  rfl

end Element

section Alone

variable {s : State} {sid : Nat} {st : Stream} {w n : Nat} {elem : List Byte}

/-- `BD.ELEMENT` to a list (R244). -/
theorem exec_bdElement_list (hs : s.streams[sid]? = some st) (he : elemSpec s.cfg st.conf.codec = some (w, n))
    (hlen : elem.length = n) {samples : List Half} (hd : bdElementList (s.ctx sid st) w n elem = .ok samples) :
    exec (.bdElement sid elem .list) s = .next (s.put sid st s.io (.samples samples)) := by
  rw [exec, execBdElement, hs]
  show (match elemSpec s.cfg st.conf.codec with | none => _ | some (w, n) => _) = _
  rw [he]
  exact (if_neg (not_not.mpr hlen)).trans (onStream_put hs (by rw [hd]; rfl))

/-- `BD.ELEMENT` to the frame (R244). -/
theorem exec_bdElement_out (hs : s.streams[sid]? = some st) (he : elemSpec s.cfg st.conf.codec = some (w, n))
    (hlen : elem.length = n) {bs : List Byte} (hd : bdElementOut (s.ctx sid st) w n elem = .ok (appendOut (s.ctx sid st) bs)) :
    exec (.bdElement sid elem .out) s = s.finish (.ok (.none, appendOut (s.ctx sid st) bs)) := by
  rw [exec, execBdElement, hs]
  show (match elemSpec s.cfg st.conf.codec with | none => _ | some (w, n) => _) = _
  rw [he]
  refine (if_neg (not_not.mpr hlen)).trans ((onStream_eq_finish hs _).trans (congrArg s.finish ?_))
  rw [hd]
  rfl

end Alone

end Sys2Proof.Machine

namespace Sys2Proof.Settled

open Machine

/-- Settles O56: the map of a code and the read of a table, each by the case its index falls in. -/
theorem bdTables : Obligations.BdTables := by
  intro s sid st hs
  refine ⟨?maps, fun hlock => ?reads⟩
  case maps =>
    intro code maps
    refine ⟨fun h => exec_bdMap hs (bdMap_beyond h), fun h hl => exec_bdMap hs ?_,
      fun x h hl hx => exec_bdMap hs (bdMap_table h hl hx)⟩
    rw [bdMap_plain (v := s.ctx sid st) h hl, BitVec.ofNat_toNat, BitVec.setWidth_eq]
  case reads =>
    intro idx reads
    have hread {which : TableSel} {r : Ret} := exec_bdReadtable hs hlock (which := which) (idx := idx) (r := r)
    exact ⟨fun hv => ⟨hread (bdReadtable_missing hv _ _), hread (bdReadtable_missing hv _ _)⟩,
      fun h => hread (bdReadtable_s2d_end h), fun h => hread (bdReadtable_d2s_end h),
      fun x hv h hx => hread (bdReadtable_s2d_cell hv h hx), fun x hv h hx => hread (bdReadtable_d2s_cell hv h hx)⟩

/-- Settles O57: the codes come back, and their samples are one write to the frame. -/
theorem bdElement : Obligations.BdElement := by
  intro s sid st w n codes hs hcodec hc ht hlen hcodes elem samples m
  have hdec := decoding_of_codec sid hc ht hcodec
  have hout := exec_bdElement_out hs hdec.spec (packElement_length w n codes) (bdElementOut_pack hdec ⟨hlen, hcodes⟩)
  have hbytes : (samplesBytes m samples).length = m * s.cfg.elemOut := by simp [samples, hlen]
  refine ⟨samplesBytes_eq (two_le_sampleSize hc) samples, fun hm => ?half,
    exec_bdElement_list hs hdec.spec (packElement_length w n codes) (bdElementList_pack hdec ⟨hlen, hcodes⟩),
    fun hfit => ⟨_, storesAt_writeCells st.out _ _, ?fits⟩, fun hover => ?overflows⟩
  case half => rw [hm]; exact samplesBytes_half samples
  case fits =>
    rw [hout, appendOut_moves (v := s.ctx sid st) (hbytes ▸ hfit)]
    show Host.Outcome.next (s.put sid { st with
      out := _, outLen := st.outLen + BitVec.ofNat 32 (samplesBytes m samples).length } s.io .none) = _
    rw [hbytes]
    rfl
  case overflows =>
    rw [hout, appendOut_overflowed (v := s.ctx sid st) (hbytes ▸ hover)]
    rfl

end Sys2Proof.Settled
end

section
/-! PROOFS. A run of elements decoded by `BD.UNPACK`, which writes nothing (R242), and by `BD.FEED`, which writes their samples to
the frame and carries the rest on (R243). -/

namespace Sys2Proof.Machine

/-! ### Whole elements -/

/-- Elements of `n` bytes, and what is left after them (R242). -/
theorem packElements_length (w n : Nat) (elems : List (List Nat)) :
    ((elems.map (packElement w n)).flatten).length = elems.length * n := by
  induction elems with
  | nil => simp
  | cons codes elems ih => simp [ih, Nat.succ_mul, Nat.add_comm]

section Unpack

variable {s : State} {v : RdCtx} {w n : Nat}

/-- The loop of `BD.UNPACK` decodes element after element (R242). -/
theorem unpackElements_pack (h : Decoding s v w n) {elems : List (List Nat)} (rest : List Byte)
    (he : ∀ codes ∈ elems, ElementCodes v.cfg w codes) :
    unpackElements v w n elems.length ((elems.map (packElement w n)).flatten ++ rest) =
      .ok (elems.flatten.map (s.sample v.st)) := by
  induction elems with
  | nil => rfl
  | cons codes elems ih =>
    obtain ⟨hcodes, helems⟩ := List.forall_mem_cons.mp he
    have hlen := packElement_length w n codes
    rw [List.length_cons, unpackElements, List.map_cons, List.flatten_cons, List.append_assoc, List.take_left' hlen,
      List.drop_left' hlen, bdElementList_pack h hcodes, ih helems, List.flatten_cons, List.map_append]
    rfl

/-- `BD.UNPACK` decodes the whole elements of its input and leaves the remainder (R242). -/
theorem bdUnpack_elements (h : Decoding s v w n) (hvalid : v.st.cfgValid = true)
    (htable : v.st.conf.lutEn = false ∨ v.st.calValid = true) {elems : List (List Nat)} {rest : List Byte}
    (he : ∀ codes ∈ elems, ElementCodes v.cfg w codes) (hrest : rest.length < n) :
    bdUnpack v ((elems.map (packElement w n)).flatten ++ rest) =
      .ok (.unpacked (elems.length * n) (elems.flatten.map (s.sample v.st)), v) := by
  have hpass : v.st.conf.codec ≠ .pass := fun hp => by
    have hspec := h.spec
    rw [hp] at hspec
    cases hspec
  have hcount : ((elems.map (packElement w n)).flatten ++ rest).length / n = elems.length := by
    rw [List.length_append, packElements_length, Nat.add_comm, Nat.add_mul_div_right _ _ h.nonempty,
      Nat.div_eq_of_lt hrest, Nat.zero_add]
  rw [bdUnpack, if_neg (by rcases htable with hl | hl <;> simp [hvalid, hpass, hl]), h.spec]
  simp only [hcount, unpackElements_pack h rest he]
  rfl

/-- `BD.UNPACK` is refused where the stream has no configuration, no unpack codec, or no table it needs (R242). -/
theorem bdUnpack_refused (h : v.st.cfgValid = false ∨ v.st.conf.codec = .pass ∨
    (v.st.conf.lutEn = true ∧ v.st.calValid = false)) (input : List Byte) : bdUnpack v input = .ok (.refused, v) :=
  if_pos (by simpa [or_assoc] using h)

end Unpack

section Host

variable {s : State} {sid : Nat} {st : Stream} {a : Agent}

/-- `BD.UNPACK` under the stream's lock leaves the stream as it was (R75, R242, R287). -/
theorem exec_bdUnpack (hs : s.streams[sid]? = some st) (hl : st.lock = none) (ha : agentExists s.cfg a = true)
    {input : List Byte} {r : Ret} (hr : bdUnpack ((s.ctx sid st).lock a) input = .ok (r, (s.ctx sid st).lock a)) :
    exec (.bdUnpack a sid input) s = .next (s.put sid st (s.io.puts [.result a r]) r) := by
  rw [exec, execBdUnpack, ha]
  exact onHost_put hs hl hl hr

/-- `BD.UNPACK` of packed elements returns their samples (R242). -/
theorem exec_bdUnpack_elements {w n : Nat} (hs : s.streams[sid]? = some st) (hl : st.lock = none)
    (ha : agentExists s.cfg a = true) (h : Decoding s (s.ctx sid st) w n) (hvalid : st.cfgValid = true)
    (htable : st.conf.lutEn = false ∨ st.calValid = true) {elems : List (List Nat)} {rest : List Byte}
    (he : ∀ codes ∈ elems, ElementCodes s.cfg w codes) (hrest : rest.length < n) :
    let r : Ret := .unpacked (elems.length * n) (elems.flatten.map (s.sample st))
    exec (.bdUnpack a sid ((elems.map (packElement w n)).flatten ++ rest)) s =
      .next (s.put sid st (s.io.puts [.result a r]) r) := by
  have hlocked : Decoding s ((s.ctx sid st).lock a) w n := ⟨h.cfg, h.table, h.spec, h.bits, h.nonempty, h.short⟩
  exact exec_bdUnpack hs hl ha (bdUnpack_elements hlocked hvalid htable he hrest)

end Host

/-! ### The frame -/

/-- A write that does not make the frame drop leaves the cursor within the buffer (R61). -/
theorem appendOut_within {v : RdCtx} {bs : List Byte} (h : (appendOut v bs).st.drop = false) :
    (appendOut v bs).st.outLen.toNat ≤ (appendOut v bs).st.conf.outCap.toNat := by
  by_cases hfit : v.st.outLen.toNat + bs.length ≤ v.st.conf.outCap.toNat
  · have hcap := v.st.conf.outCap.isLt
    rw [appendOut_fits hfit]
    show (BitVec.ofNat 32 _).toNat ≤ _
    rw [BitVec.toNat_ofNat, Nat.mod_eq_of_lt (by omega)]
    exact hfit
  · rw [appendOut_overflows (Nat.not_le.mp hfit)] at h
    cases h

/-- A write of no bytes changes nothing (R61). -/
theorem appendOut_nil {v : RdCtx} (h : v.st.outLen.toNat ≤ v.st.conf.outCap.toNat) : appendOut v [] = v := by
  rw [appendOut_moves (by simpa using h)]
  simp [writeCells]

/-- The end of `BD.FEED` on packed elements: their samples are one write to the frame, and what is left is carried on unless
the frame has come to drop (R190, R243). -/
theorem feedWhole_elements {s : State} {w n : Nat} {rest : List Byte} (hrest : rest.length < n) (elems : List (List Nat)) :
    ∀ v : RdCtx, Decoding s v w n → v.st.drop = false → v.st.outLen.toNat ≤ v.st.conf.outCap.toNat →
      (∀ codes ∈ elems, ElementCodes v.cfg w codes) →
      let u := appendOut v (samplesBytes (v.cfg.sampleBits / 8) (elems.flatten.map (s.sample v.st)))
      feedWhole (v.carrying []) w n ((elems.map (packElement w n)).flatten ++ rest) =
        .ok (if u.st.drop then u else u.carrying rest) := by
  induction elems with
  | nil =>
    intro v _ hd hroom _ u
    have hu : u = v := appendOut_nil hroom
    rw [hu, if_neg (by simp [hd])]
    exact feedWhole_short (v.carrying []) w hrest
  | cons codes elems ih =>
    intro v h hd hroom he u
    obtain ⟨hcodes, helems⟩ := List.forall_mem_cons.mp he
    have hlen := packElement_length w n codes
    let first := appendOut v (samplesBytes (v.cfg.sampleBits / 8) (codes.map (s.sample v.st)))
    let others := samplesBytes (v.cfg.sampleBits / 8) (elems.flatten.map (s.sample v.st))
    have hu : u = if first.st.drop then first else appendOut first others := by
      show appendOut v _ = _
      rw [List.flatten_cons, List.map_append, samplesBytes_append, appendOut_append _ _ hd]
    have hframes : Frames v first := appendOut_frames v _
    obtain ⟨hfirst, hsample⟩ := h.frames hframes
    rw [List.map_cons, List.flatten_cons, List.append_assoc,
      feedWhole_element w h.nonempty (by simp) hd, List.take_left' hlen, List.drop_left' hlen,
      elementThen, bdElementOut_pack h hcodes]
    show (if first.st.drop then Except.ok first else feedWhole (first.carrying []) w n _) = _
    cases hdrop : first.st.drop with
    | true => simp [hu, hdrop]
    | false =>
      have hthen := ih first hfirst hdrop (appendOut_within hdrop) (hframes.cfg ▸ helems)
      rw [hsample, hframes.cfg] at hthen
      rw [if_neg Bool.false_ne_true, hthen, hu, hdrop]
      rfl

/-- `BD.FEED` on its own, of bytes that complete elements with the ones carried (R243). -/
theorem exec_bdFeed_elements {s : State} {sid : Nat} {st : Stream} {w n : Nat} {elems : List (List Nat)}
    {carried d rest : List Byte} (hs : s.streams[sid]? = some st) (h : Decoding s (s.ctx sid st) w n)
    (hd : st.drop = false) (hroom : st.outLen.toNat ≤ st.conf.outCap.toNat) (hcont : st.cont = tableCells 0 carried)
    (hlen : st.contLen.toNat = carried.length) (hshort : carried.length < n)
    (hsplit : carried ++ d = (elems.map (packElement w n)).flatten ++ rest) (hrest : rest.length < n)
    (he : ∀ codes ∈ elems, ElementCodes s.cfg w codes) :
    let u := appendOut (s.ctx sid st) (samplesBytes (s.cfg.sampleBits / 8) (elems.flatten.map (s.sample st)))
    exec (.bdFeed sid d) s = s.finish (.ok (.none, if u.st.drop then u else u.carrying rest)) := by
  intro u
  have hview : s.ctx sid st = (s.ctx sid st).carrying carried := by
    show s.ctx sid st = s.ctx sid { st with cont := tableCells 0 carried, contLen := BitVec.ofNat 5 carried.length }
    rw [← hcont, ← hlen, BitVec.ofNat_toNat, BitVec.setWidth_eq]
  have hfeed : bdFeed (s.ctx sid st) w n d = .ok (if u.st.drop then u else u.carrying rest) := by
    rw [hview, bdFeed_carrying w d h.short hshort hd, hsplit]
    exact feedWhole_elements hrest elems (s.ctx sid st) h hd hroom he
  rw [exec_bdFeed hs h.spec, hfeed]
  rfl

end Sys2Proof.Machine

namespace Sys2Proof.Settled

open Machine

/-- Settles O58: a refused call and a decoded input, for any agent that may ask. -/
theorem bdUnpack : Obligations.BdUnpack := by
  intro s sid st a hs hl ha answers refuses
  refine ⟨fun input h => exec_bdUnpack hs hl ha (bdUnpack_refused h input),
    fun w n elems rest hcan ht hcodec hc he hrest => ?_⟩
  have hvalid : st.cfgValid = true := eq_true_of_ne_false fun hn => hcan (.inl hn)
  have htable : st.conf.lutEn = false ∨ st.calValid = true := by
    cases hlut : st.conf.lutEn with
    | false => exact .inl rfl
    | true => exact .inr (eq_true_of_ne_false fun hn => hcan (.inr (.inr ⟨hlut, hn⟩)))
  exact exec_bdUnpack_elements hs hl ha (decoding_of_codec sid hc ht hcodec) hvalid htable he hrest

/-- Settles O59: the elements of the one input are one write to the frame, and `BD.UNPACK` decodes the same. -/
theorem bdFeed : Obligations.BdFeed := by
  intro s sid st w n elems carried d rest hs hd hroom hcodec hc ht hcont hlen hshort hsplit hrest he samples m bytes
  have hdec := decoding_of_codec sid hc ht hcodec
  have hexec := exec_bdFeed_elements hs hdec hd hroom hcont hlen hshort hsplit hrest he
  have hbytes : samplesBytes m samples = bytes := samplesBytes_eq (two_le_sampleSize hc) samples
  have hsize : bytes.length = m * samples.length := hbytes ▸ samplesBytes_length m samples
  dsimp only at hexec
  rw [show samplesBytes (s.cfg.sampleBits / 8) (elems.flatten.map (s.sample st)) = bytes from hbytes] at hexec
  refine ⟨fun hfit => ⟨_, storesAt_writeCells st.out _ bytes, ?fits⟩, fun hover => ?overflows,
    fun hl hvalid htable a ha => ?unpacks⟩
  case fits =>
    rw [hexec, appendOut_moves (v := s.ctx sid st) (hsize ▸ hfit), if_neg (by simp [hd]), hsize]
    rfl
  case overflows =>
    rw [hexec, appendOut_overflowed (v := s.ctx sid st) (hsize ▸ hover)]
    rfl
  case unpacks =>
    rw [hsplit]
    exact exec_bdUnpack_elements hs hl ha hdec hvalid htable he hrest

end Sys2Proof.Settled
end

section
/-! PROOFS. The build of the calibration tables in closed form (R251): which codes are accepted, the greatest of them below a
code, and the two tables cell by cell. -/

namespace Sys2Proof.Machine

/-- A call of `BD.CALIBRATE`, as the build of its tables sees it (R250, R251). -/
structure Calibration where
  cfg : Cfg
  cal : CalRecord
  mn : Half
  mx : Half

namespace Calibration

/-- The depth of a code (R254). -/
def depth (b : Calibration) (c : Nat) : Int := depthValue b.cfg.depthOf b.cal c

/-- The build's `last_code` and `last_depth` when it comes to a code (R251). -/
def last (b : Calibration) : Nat → Nat × Nat
  | 0 => (0, 0)
  | c + 1 => if codeAccepted b.cfg b.mn b.mx (b.last c).2 (b.depth c) then (c, (b.depth c).toNat) else b.last c

/-- The codes that the build accepts (R251). -/
def accepted (b : Calibration) (c : Nat) : Bool :=
  decide (c < b.cfg.maxCode) && codeAccepted b.cfg b.mn b.mx (b.last c).2 (b.depth c)

/-- The `D2S` cell of a depth: the greatest accepted code whose depth is at most that, 0 where there is none (R251). -/
def Cell (b : Calibration) (x code : Nat) : Prop :=
  (b.accepted code = true ∧ b.depth code ≤ x ∧ ∀ c, b.accepted c = true → b.depth c ≤ x → c ≤ code) ∨
    (code = 0 ∧ ∀ c, b.accepted c = true → (x : Int) < b.depth c)

variable {b : Calibration} {c : Nat}

/-! ### Accepted codes -/

/-- The test of a code against the cutoffs and the depth before it (R251). -/
theorem codeAccepted_iff {lastDepth : Nat} {d : Int} : codeAccepted b.cfg b.mn b.mx lastDepth d = true ↔
    (b.mn.toNat : Int) ≤ d ∧ d ≤ b.mx.toNat ∧ d ≤ b.cfg.maxDepth ∧ (lastDepth : Int) ≤ d := by
  simp only [codeAccepted, Bool.and_eq_true, decide_eq_true_eq, and_assoc]

theorem accepted_iff_codeAccepted : b.accepted c = true ↔
    c < b.cfg.maxCode ∧ codeAccepted b.cfg b.mn b.mx (b.last c).2 (b.depth c) = true := by
  rw [accepted, Bool.and_eq_true, decide_eq_true_eq]

theorem accepted_lt (h : b.accepted c = true) : c < b.cfg.maxCode := (accepted_iff_codeAccepted.mp h).1

/-- The depth of an accepted code fits the table and is not below the depth before it (R251). -/
theorem depth_of_accepted (h : b.accepted c = true) :
    ((b.last c).2 : Int) ≤ b.depth c ∧ b.depth c ≤ b.cfg.maxDepth ∧ ((b.depth c).toNat : Int) = b.depth c := by
  obtain ⟨-, -, hmax, hlast⟩ := codeAccepted_iff.mp (accepted_iff_codeAccepted.mp h).2
  exact ⟨hlast, hmax, Int.toNat_of_nonneg (by omega)⟩

theorem last_succ_accepted (h : b.accepted c = true) : b.last (c + 1) = (c, (b.depth c).toNat) :=
  if_pos (accepted_iff_codeAccepted.mp h).2

theorem last_succ_rejected (hc : c < b.cfg.maxCode) (h : b.accepted c = false) : b.last (c + 1) = b.last c :=
  if_neg fun ha => Bool.eq_false_iff.mp h (accepted_iff_codeAccepted.mpr ⟨hc, ha⟩)

/-- No accepted code below a code exceeds the last one, in number or in depth (R251). -/
theorem le_last (hc : c ≤ b.cfg.maxCode) :
    ∀ c' < c, b.accepted c' = true → c' ≤ (b.last c).1 ∧ b.depth c' ≤ (b.last c).2 := by
  induction c with
  | zero => exact fun c' h => absurd h (Nat.not_lt_zero c')
  | succ c ih =>
    have hbelow := ih (Nat.le_of_succ_le hc)
    refine Nat.forall_lt_succ_right.mpr ?_
    cases ha : b.accepted c with
    | true =>
      obtain ⟨hlast, -, hdepth⟩ := depth_of_accepted ha
      rw [last_succ_accepted ha, hdepth]
      exact ⟨fun c' hlt h' => ⟨Nat.le_of_lt hlt, (hbelow c' hlt h').2.trans hlast⟩, fun _ => ⟨Nat.le_refl c, Int.le_refl _⟩⟩
    | false =>
      rw [last_succ_rejected hc ha]
      exact ⟨hbelow, nofun⟩

/-- The last accepted code below a code is one, with its depth; both are 0 where none was accepted (R251). -/
theorem last_cases (hc : c ≤ b.cfg.maxCode) :
    ((b.last c).1 < c ∧ b.accepted (b.last c).1 = true ∧ b.depth (b.last c).1 = (b.last c).2) ∨
      (b.last c = (0, 0) ∧ ∀ c' < c, b.accepted c' = false) := by
  induction c with
  | zero => exact .inr ⟨rfl, fun c' h => absurd h (Nat.not_lt_zero c')⟩
  | succ c ih =>
    cases ha : b.accepted c with
    | true =>
      obtain ⟨-, -, hdepth⟩ := depth_of_accepted ha
      rw [last_succ_accepted ha]
      exact .inl ⟨Nat.lt_succ_self c, ha, hdepth.symm⟩
    | false =>
      rw [last_succ_rejected hc ha]
      obtain ⟨hlt, hacc, hdepth⟩ | ⟨h0, hnone⟩ := ih (Nat.le_of_succ_le hc)
      · exact .inl ⟨Nat.lt_succ_of_lt hlt, hacc, hdepth⟩
      · exact .inr ⟨h0, Nat.forall_lt_succ_right.mpr ⟨hnone, ha⟩⟩

/-- A depth is not below the last one where it is not below the depth of any code accepted so far (R251). -/
theorem last_depth_le_iff (hc : c ≤ b.cfg.maxCode) {d : Int} (hd : 0 ≤ d) :
    ((b.last c).2 : Int) ≤ d ↔ ∀ c' < c, b.accepted c' = true → b.depth c' ≤ d := by
  refine ⟨fun h c' hlt h' => (le_last hc c' hlt h').2.trans h, fun h => ?_⟩
  obtain ⟨hlt, hacc, hdepth⟩ | ⟨h0, -⟩ := last_cases hc
  · exact hdepth ▸ h _ hlt hacc
  · rw [h0]
    exact hd

/-- The accepted codes in closed form (R251). -/
theorem accepted_iff : b.accepted c = true ↔ c < b.cfg.maxCode ∧ (b.mn.toNat : Int) ≤ b.depth c ∧ b.depth c ≤ b.mx.toNat ∧
    b.depth c ≤ b.cfg.maxDepth ∧ ∀ c' < c, b.accepted c' = true → b.depth c' ≤ b.depth c := by
  rw [accepted_iff_codeAccepted, codeAccepted_iff]
  refine and_congr_right fun hc => and_congr_right fun hmin => and_congr_right fun _ => and_congr_right fun _ => ?_
  exact last_depth_le_iff (Nat.le_of_lt hc) (by omega)

/-- Accepted codes have rising depths (R251). -/
theorem depth_mono {c c' : Nat} (hc : b.accepted c = true) (hc' : b.accepted c' = true) (h : c ≤ c') :
    b.depth c ≤ b.depth c' := by
  obtain ⟨-, -, -, -, hbelow⟩ := accepted_iff.mp hc'
  obtain hlt | rfl := Nat.lt_or_eq_of_le h
  · exact hbelow c hlt hc
  · exact Int.le_refl _

/-! ### The tables -/

/-- The last accepted code is the cell of every depth from its own up to that of the next accepted one (R251). -/
theorem cell_last {x : Nat} (hc : c ≤ b.cfg.maxCode) (hx : (b.last c).2 ≤ x)
    (hnext : ∀ c', c ≤ c' → b.accepted c' = true → (x : Int) < b.depth c') : b.Cell x (b.last c).1 := by
  obtain ⟨-, hacc, hdepth⟩ | ⟨h0, hnone⟩ := last_cases hc
  · refine .inl ⟨hacc, hdepth ▸ Int.ofNat_le.mpr hx, fun c' h' hle => ?_⟩
    obtain hlt | hge := Nat.lt_or_ge c' c
    · exact (le_last hc c' hlt h').1
    · exact absurd hle (Int.not_le.mpr (hnext c' hge h'))
  · refine .inr ⟨by rw [h0], fun c' h' => ?_⟩
    obtain hlt | hge := Nat.lt_or_ge c' c
    · exact absurd h' (by simp [hnone c' hlt])
    · exact hnext c' hge h'

/-- What the build makes of the codes from `c` up, `k` of them (R251). -/
def tablesFrom (b : Calibration) (c k : Nat) : List Half × List Half :=
  buildTables b.cfg b.cal b.mn b.mx (List.range' c k) (b.last c).1 (b.last c).2

theorem tablesFrom_accepted (k : Nat) (h : b.accepted c = true) :
    b.tablesFrom c (k + 1) = (BitVec.ofNat 16 (b.depth c).toNat :: (b.tablesFrom (c + 1) k).1,
      List.replicate ((b.depth c).toNat - (b.last c).2) (BitVec.ofNat 16 (b.last c).1) ++ (b.tablesFrom (c + 1) k).2) := by
  rw [tablesFrom, tablesFrom, last_succ_accepted h]
  exact if_pos (accepted_iff_codeAccepted.mp h).2

theorem tablesFrom_rejected (k : Nat) (hc : c < b.cfg.maxCode) (h : b.accepted c = false) :
    b.tablesFrom c (k + 1) =
      (BitVec.ofNat 16 b.cfg.noData :: (b.tablesFrom (c + 1) k).1, (b.tablesFrom (c + 1) k).2) := by
  rw [tablesFrom, tablesFrom, last_succ_rejected hc h]
  exact if_neg fun ha => Bool.eq_false_iff.mp h (accepted_iff_codeAccepted.mpr ⟨hc, ha⟩)

/-- `S2D` cell by cell: the depth of an accepted code, no-data for any other (R251). -/
theorem tablesFrom_s2d (k : Nat) : ∀ c i, c + k = b.cfg.maxCode → i < k → (b.tablesFrom c k).1[i]? =
    some (if b.accepted (c + i) then BitVec.ofNat 16 (b.depth (c + i)).toNat else BitVec.ofNat 16 b.cfg.noData) := by
  induction k with
  | zero => exact fun _ i _ hi => absurd hi (Nat.not_lt_zero i)
  | succ k ih =>
    intro c i hk hi
    cases i with
    | zero =>
      cases ha : b.accepted c with
      | true => simp [tablesFrom_accepted k ha]
      | false => simp [tablesFrom_rejected k (by omega) ha]
    | succ i =>
      have htail : (b.tablesFrom c (k + 1)).1[i + 1]? = (b.tablesFrom (c + 1) k).1[i]? := by
        cases ha : b.accepted c with
        | true => simp [tablesFrom_accepted k ha]
        | false => simp [tablesFrom_rejected k (by omega) ha]
      rw [htail, ih (c + 1) i (by omega) (by omega), Nat.add_right_comm, Nat.add_assoc]

/-- `D2S` cell by cell, from the last depth on (R251). -/
theorem tablesFrom_d2s (k : Nat) : ∀ c x, c + k = b.cfg.maxCode → (b.last c).2 ≤ x → x ≤ b.cfg.maxDepth →
    ∃ code, (b.tablesFrom c k).2[x - (b.last c).2]? = some (BitVec.ofNat 16 code) ∧ b.Cell x code := by
  induction k with
  | zero =>
    intro c x hk hlast hx
    refine ⟨(b.last c).1, ?_, cell_last (by omega) hlast fun c' h h' => ?_⟩
    · show (List.replicate (b.cfg.maxDepth + 1 - (b.last c).2) (BitVec.ofNat 16 (b.last c).1))[x - (b.last c).2]? = _
      rw [List.getElem?_replicate, if_pos (by omega)]
    · have hlt := accepted_lt h'
      omega
  | succ k ih =>
    intro c x hk hlast hx
    cases ha : b.accepted c with
    | true =>
      obtain ⟨hge, -, hdepth⟩ := depth_of_accepted ha
      rw [tablesFrom_accepted k ha]
      obtain hlt | hle := Nat.lt_or_ge x (b.depth c).toNat
      · refine ⟨(b.last c).1, ?_, cell_last (by omega) hlast fun c' h h' => ?_⟩
        · rw [List.getElem?_append_left (by rw [List.length_replicate]; omega), List.getElem?_replicate, if_pos (by omega)]
        · have hmono := depth_mono ha h' h
          omega
      · obtain ⟨code, hcode, hcell⟩ := ih (c + 1) x (by omega) (by rw [last_succ_accepted ha]; exact hle) hx
        rw [last_succ_accepted ha] at hcode
        refine ⟨code, ?_, hcell⟩
        rw [List.getElem?_append_right (by rw [List.length_replicate]; omega), List.length_replicate,
          show x - (b.last c).2 - ((b.depth c).toNat - (b.last c).2) = x - (b.depth c).toNat by omega]
        exact hcode
    | false =>
      have hstays := last_succ_rejected (by omega) ha
      rw [tablesFrom_rejected k (by omega) ha, ← hstays]
      exact ih (c + 1) x (by omega) (hstays ▸ hlast) hx

end Calibration

end Sys2Proof.Machine

namespace Sys2Proof.Settled

open Machine

/-- Settles O60: the tables of the build from its first code on, read cell by cell. -/
theorem bdCalibrate : Obligations.BdCalibrate := by
  intro s sid st cal mn mx hs hl depth
  let b : Calibration := ⟨s.cfg, cal, mn, mx⟩
  let tables := b.tablesFrom 0 s.cfg.maxCode
  have hbuilt : buildTables s.cfg cal mn mx (List.range s.cfg.maxCode) 0 0 = tables := by
    rw [List.range_eq_range']
    rfl
  obtain ⟨hs2d, hd2s⟩ := buildTables_lengths s.cfg cal mn mx (List.range s.cfg.maxCode) 0 0 (Nat.zero_le _)
  rw [hbuilt, List.length_range] at hs2d
  rw [hbuilt, Nat.sub_zero] at hd2s
  refine ⟨tableCells 0 tables.1, tableCells 0 tables.2, b.accepted, ?run, hs2d ▸ tableCells_holds _,
    hd2s ▸ tableCells_holds _, fun c => Calibration.accepted_iff, fun c hc => ?codes, fun x hx => ?depths⟩
  case run =>
    rw [exec, execBdCalibrate]
    refine onHost_put hs hl hl ?_
    rw [← hbuilt]
    rfl
  case codes =>
    have hcell := Calibration.tablesFrom_s2d (b := b) _ 0 c (Nat.zero_add _) hc
    rw [Nat.zero_add] at hcell
    rw [readCell_tableCells, if_pos (Nat.zero_le c)]
    exact hcell
  case depths =>
    obtain ⟨code, hcode, hcell⟩ := Calibration.tablesFrom_d2s (b := b) _ 0 x (Nat.zero_add _) (Nat.zero_le x) hx
    exact ⟨code, by rw [readCell_tableCells, if_pos (Nat.zero_le x)]; exact hcode, hcell⟩

end Sys2Proof.Settled
end

section
/-! PROOFS. A port transaction that has its turn runs as the operation it decodes to (R90, R281, R283). -/

namespace Sys2Proof.Machine

/-- A reset that is the next stimulus has its turn, whatever else can go on (R281, R283). -/
theorem turn_of_reset {s : State} {rest : List Stimulus} (hs : s.stimuli = .port .reset :: rest) :
    s.turn = some .stimulus := by
  have hr : s.resetNext = true := by rw [State.resetNext, hs]
  rw [State.turn, if_pos hr]

/-- A well-formed operation whose agent is free runs (R281). -/
theorem begin_free {s : State} {i later : Instr} (hw : i.wellFormed s.cfg) (hb : s.busy i = false) :
    s.begin i later = .run i s := by
  simp [State.begin, hw, hb]

/-- A transaction of a free agent runs in its turn as the operation it decodes to (R90, R281). -/
theorem step_runs_free {s : State} {t : Transaction} {rest : List Stimulus} {i : Instr} (hc : cfgLegal s.cfg = true)
    (hs : s.stimuli = .port t :: rest) (ht : s.turn = some .stimulus)
    (hd : decodeInput (s.decodeCtx t) t = .ok i) (hw : i.wellFormed s.cfg) (hb : s.busy i = false) :
    step s = exec i (s.stimulated rest) := by
  rw [step_of_port hc hs ht, start_of_decode ((decodeCtx_stimulated s rest t).symm ▸ hd),
    begin_free (s := s.stimulated rest) hw hb]
  rfl

end Sys2Proof.Machine

namespace Sys2Proof.Settled

open Machine

/-- Settles O4: the next stimulus has its turn, a reset always; a free agent's transaction then runs. -/
theorem stepRunsDecoded : Obligations.StepRunsDecoded := by
  intro s t rest i hc hs ht hd hw hb
  have hturn : s.turn = some .stimulus := by
    rcases ht with rfl | ht
    · exact turn_of_reset hs
    · exact ht
  exact step_runs_free hc hs hturn hd hw hb

end Sys2Proof.Settled
end

section
/-! PROOFS. Reset: what `HW.RESET` leaves, and that a block that was never connected is sound (R310, R311). -/

namespace Sys2Proof.Machine

/-- `HW.RESET` is never refused and keeps the configuration, the number of streams and the environment (R310, log entry 22). -/
theorem exec_hwReset (s : State) :
    exec .hwReset s = .next { State.reset with
      cfg := s.cfg, streams := List.replicate s.streams.length Stream.reset, io := s.io, stimuli := s.stimuli
      choices := s.choices } := rfl

/-- Every stream of the reset state is stopped (R311). -/
theorem eq_reset_of_mem_streams {st : Stream} (h : st ∈ State.reset.streams) : st = Stream.reset :=
  List.eq_of_mem_replicate h

/-- The reset state is sound: no lock is held, nothing is in flight, no reference is established (R44, R311). -/
theorem reset_inv : Inv State.reset where
  cfg := by decide
  count := List.length_replicate
  streams sid st hst := by
    obtain rfl := eq_reset_of_mem_streams (List.mem_of_getElem? hst)
    exact streamInv_reset sid (by decide) rfl
  cap := nofun
  clkLock := nofun
  refHost := by
    rintro (hvalid | ⟨st, hmem, hpast⟩)
    · cases hvalid
    · obtain rfl := eq_reset_of_mem_streams hmem
      cases hpast
  exchange := nofun
  idle _ := rfl
  admitted := nofun
  held := nofun

end Sys2Proof.Machine

namespace Sys2Proof.Settled

open Machine

/-- Settles O7: every stream is sound because it is at its reset values (`streamInv_reset`), every other clause because nothing
is connected, locked or in flight. -/
theorem resetInv : Obligations.ResetInv := reset_inv

/-- Settles O17: the block's own registers are those of `State.reset`; each stream record is `Stream.reset`, whose stores list
no cell. -/
theorem hwReset : Obligations.HwReset := by
  intro s
  refine ⟨_, exec_hwReset s, rfl, rfl, rfl, rfl, rfl, rfl, rfl, rfl, rfl, rfl, rfl, rfl, List.length_replicate,
    fun st hst => ?_⟩
  obtain rfl := List.eq_of_mem_replicate hst
  simp [Stream.reset, readCell_nil]

end Sys2Proof.Settled
end
